-- ==== Sys2Proof/Word.lean ====
section
/-! DEFINITION. The value types of the STIC render core and the two container shapes its buffers use.

Bit vectors stand only for what the spec treats as bits: a shared-memory cell (R60, D1), a packed color
(R27, D23), a collision mask (R26), a graphic row (R103) and a palette index (R10, R105). -/

namespace Sys2Proof

/-- One shared-memory cell, CELL_BITS = 16 bits (R60; D1). -/
abbrev Word := BitVec 16

/-- A 24-bit packed color, 0xRRGGBB (R27; D23). -/
abbrev Color := BitVec 24

/-- One cell of the collision working buffer: a 10-bit mask (R26). -/
abbrev Mask := BitVec 10

/-- An 8-bit graphic row; bit 7 is the leftmost pixel (R64, R103). -/
abbrev Byte := BitVec 8

/-- A palette index 0..15 (R10, R105). -/
abbrev PalIdx := BitVec 4

/-- `mapFrom f i l` applies `f` to each element together with its position, counted from `i`. -/
def mapFrom {α β : Type} (f : Nat → α → β) : Nat → List α → List β
  | _, [] => []
  | i, a :: l => f i a :: mapFrom f (i + 1) l

theorem mapFrom_length {α β : Type} (f : Nat → α → β) (i : Nat) (l : List α) :
    (mapFrom f i l).length = l.length := by
  induction l generalizing i with
  | nil => rfl
  | cons a l ih => simp [mapFrom, ih]

/-- Replace every element of a vector by a function of its index and its value. -/
def vecMapIdx {α β : Type} {n : Nat} (f : Nat → α → β) (v : Vector α n) : Vector β n :=
  ⟨⟨mapFrom f 0 v.toList⟩, by simp [mapFrom_length]⟩

/-- The vector whose element at index `i` is `f i`. -/
def vecTabulate {α : Type} (n : Nat) (f : Nat → α) : Vector α n :=
  vecMapIdx (fun i _ => f i) (Vector.replicate n ())

/-- One row of buffer columns 0..351 (R25, R27). -/
abbrev Row (α : Type) := Vector α 352

/-- A working buffer: two virtual-row copies of 352 cells (R25, R26; D6). -/
structure Copies (α : Type) where
  /-- Copy 0, the "full row". -/
  full   : Row α
  /-- Copy 1, the "secondary row". -/
  second : Row α
  deriving DecidableEq, Repr

namespace Copies

/-- Copy `k` of a working buffer. -/
def get {α : Type} (b : Copies α) : Fin 2 → Row α
  | 0 => b.full
  | 1 => b.second

/-- Replace copy `k`. -/
def set {α : Type} (b : Copies α) (k : Fin 2) (r : Row α) : Copies α :=
  match k with
  | 0 => { b with full := r }
  | 1 => { b with second := r }

/-- Apply one function of column and value to both copies. -/
def mapCols {α : Type} (f : Nat → α → α) (b : Copies α) : Copies α :=
  { full := vecMapIdx f b.full, second := vecMapIdx f b.second }

/-- Both copies filled with one value. -/
def fill {α : Type} (v : α) : Copies α :=
  { full := Vector.replicate 352 v, second := Vector.replicate 352 v }

end Copies

end Sys2Proof
end

