-- ==== Sys2Proof/Config.lean ====
section
/-! DEFINITION. What an implementation fixes (the open parameters of R9) and the free values.

A free value is an opaque constant: nothing in Lean can evaluate it, so a statement that is proved holds
whatever it is. The open parameters are plain data (`Params`, a field of `State` that no core step writes), so
every statement over all states quantifies over them, as R9 asks. -/

namespace Sys2Proof

/-- The open parameters of R9 other than MODE. -/
structure Params where
  /-- PALETTE[1..15], in order (R130; D4). -/
  palette1to15 : Vector Color 15
  /-- DW_TAG_OFFSETS, four offsets from SPRX(x, p, 4) (R190; D14). -/
  dwTagOffsets : Vector Int 4
  /-- COL167_CELLS: pairs of a copy and a column relative to HD (R185; D15). -/
  col167Cells  : List (Fin 2 × Int)
  deriving DecidableEq, Repr

/-- PALETTE[0] = 0x0C0005, the one entry the source gives (R130). -/
def Config.palette0 : Color := 0x0C0005#24

/-- The suggested default of DW_TAG_OFFSETS (R9; D14). -/
def Config.dwTagDefault : Vector Int 4 := #v[0, 1, 2, 3]

/-- The suggested default of COL167_CELLS, relative to HD (R9, R185; D15). -/
def Config.col167Default : List (Fin 2 × Int) := [(0, 318), (0, 319), (1, 318), (1, 319)]

/-- FREE VALUE: PALETTE[n+1] of the implementation, which no source states (R130; D4; log entry 4). -/
opaque Config.paletteEntry : Nat → Color

/-- FREE VALUE: what a shared-memory cell that the host has not written holds (R282; log entry 3). -/
opaque Config.unwrittenCell : Nat → Word

/-- FREE VALUE: FRAME[y][x] before the first completed RENDER_FRAME (R35; D19; log entry 5). -/
opaque Config.frameAtPowerOn : Nat → Nat → Color

/-- FREE VALUE: CACHE_FG[c] at power-on (R35; D19; log entry 5). -/
opaque Config.cacheFgAtPowerOn : Nat → PalIdx

/-- FREE VALUE: CACHE_BG[c] at power-on (R35; D19; log entry 5). -/
opaque Config.cacheBgAtPowerOn : Nat → PalIdx

/-- FREE VALUE: the MODE input before the host sets it (R9, R34; log entry 6). -/
opaque Config.modeAtPowerOn : Int

end Sys2Proof
end

