-- ==== Sys2Proof/Syntax.lean ====
section
/-! DEFINITION. The core's instructions: one constructor per row of spec/opcode_table.json.

R3 frames an instruction as a word the core decodes from shared memory, or the host command. R90: the
address a word was read from is part of what it is, so a constructor carries the cell's place in its bank (the
MOB index, the color-stack slot, the BACKTAB cell 20*row + col of R110, the graphic address) beside the word's
fields. Fields the spec assembles from split bits (R105) stand assembled. -/

namespace Sys2Proof

/-- The sixteen instructions of R3. -/
inductive Instr where
  /-- BT_FGBG_CARD, format F_BT_FGBG: a BACKTAB word when MODEQ = 0 (R91). -/
  | btFgbgCard (cell : Fin 240) (fg : BitVec 3) (card : BitVec 6) (bg : BitVec 4) (gram : Bool)
  /-- BT_CS_CARD_GROM, format F_BT_CS with sub-mode w[12:11] = 0: an 8-bit GROM card (R92, R94). -/
  | btCsCardGrom (cell : Fin 240) (fg : BitVec 3) (card : BitVec 8) (adv : Bool)
  /-- BT_CS_CARD_GRAM, format F_BT_CS with sub-mode 1: a 6-bit GRAM card, FG3 = 0 (R92, R94). -/
  | btCsCardGram (cell : Fin 240) (fg : BitVec 3) (card : BitVec 6) (adv : Bool)
  /-- BT_CS_CARD_GRAM_FG3, format F_BT_CS with sub-mode 3: a 6-bit GRAM card, FG3 = 1 (R92, R94). -/
  | btCsCardGramFg3 (cell : Fin 240) (fg : BitVec 3) (card : BitVec 6) (adv : Bool)
  /-- BT_CS_SQUARES, format F_BT_CSQ with sub-mode 2; c3 is C3 = w[13] :: w[10:9] (R93, R94). -/
  | btCsSquares (cell : Fin 240) (c0 c1 c2 c3 : BitVec 3)
  /-- MOB_X, format F_MOBX, cell 0x00+i (R95). -/
  | mobX (i : Fin 8) (x : BitVec 8) (intr visb xsize : Bool)
  /-- MOB_Y, format F_MOBY, cell 0x08+i (R96). -/
  | mobY (i : Fin 8) (y : BitVec 7) (yres : Bool) (ysize : BitVec 2) (xflip yflip : Bool)
  /-- MOB_A, format F_MOBA, cell 0x10+i; fg is FG = w[12] :: w[2:0] (R97). -/
  | mobA (i : Fin 8) (fg : BitVec 4) (card : BitVec 8) (gram prio : Bool)
  /-- MOB_COLL, format F_MOBC, cell 0x18+i: the collision register as read (R98). -/
  | mobColl (i : Fin 8) (mob : BitVec 8) (bg border : Bool)
  /-- CSTK_ENTRY, format F_CSTK, cell 0x28+slot (R99). -/
  | cstkEntry (slot : Fin 4) (color : BitVec 4)
  /-- BORDER_COLOR, format F_BORDER, cell 0x2C (R100). -/
  | borderColor (color : BitVec 4)
  /-- HDELAY, format F_HDLY, cell 0x30 (R101). -/
  | hdelay (delay : BitVec 3)
  /-- VDELAY, format F_VDLY, cell 0x31 (R101). -/
  | vdelay (delay : BitVec 3)
  /-- EXTEND, format F_EXT, cell 0x32 (R102). -/
  | extend (left top : Bool)
  /-- GRAPHIC_ROW, format F_GROW, a GROM or GRAM cell (R103). -/
  | graphicRow (addr : Nat) (row : BitVec 8)
  /-- RENDER_FRAME, the host command: no operands, no encoding bits (R104). -/
  | renderFrame
  deriving DecidableEq, Repr

namespace Instr

/-- Every instruction but the host command is a word of shared memory (R3). -/
def isWord : Instr → Bool
  | .renderFrame => false
  | .btFgbgCard .. | .btCsCardGrom .. | .btCsCardGram .. | .btCsCardGramFg3 .. | .btCsSquares ..
  | .mobX .. | .mobY .. | .mobA .. | .mobColl .. | .cstkEntry .. | .borderColor .. | .hdelay ..
  | .vdelay .. | .extend .. | .graphicRow .. => true

/-- A BACKTAB word has its format in one display mode only (R90, R108): `readIn i modeq` says that `i` is read
when MODEQ has this value. Every other word is read in both. -/
def readIn : Instr → Bool → Bool
  | .btFgbgCard .., m => !m
  | .btCsCardGrom .., m | .btCsCardGram .., m | .btCsCardGramFg3 .., m | .btCsSquares .., m => m
  | .mobX .., _ | .mobY .., _ | .mobA .., _ | .mobColl .., _ | .cstkEntry .., _ | .borderColor .., _
  | .hdelay .., _ | .vdelay .., _ | .extend .., _ | .graphicRow .., _ | .renderFrame, _ => true

end Instr

end Sys2Proof
end

