-- ==== Sys2Proof/WellFormed.lean ====
section
/-! DEFINITION. Well-formed instructions.

Every field of a constructor has exactly the width its format table gives it, and every bank index its bank's
range, so the types leave one check: the address of a graphic row (R103). No encoding is illegal (R107). -/

namespace Sys2Proof

/-- GROM is 0x3000..0x37FF and GRAM 0x3800..0x39FF (R32, R61; D3). -/
def isGraphicAddr (a : Nat) : Bool := decide (0x3000 ≤ a) && decide (a < 0x3A00)

/-- The check on an instruction's operands: a graphic row stands in GROM or GRAM (R103). -/
def Instr.wf : Instr → Bool
  | .graphicRow a _ => isGraphicAddr a
  | .btFgbgCard .. | .btCsCardGrom .. | .btCsCardGram .. | .btCsCardGramFg3 .. | .btCsSquares ..
  | .mobX .. | .mobY .. | .mobA .. | .mobColl .. | .cstkEntry .. | .borderColor .. | .hdelay ..
  | .vdelay .. | .extend .. | .renderFrame => true

end Sys2Proof
end

