-- ==== Sys2Proof/Decode.lean ====
section
/-! DEFINITION. The bit layout, the decoder and, after it, the encoder.

D2 asks for the layout in one configuration table, so that a correction is one edit: it is the namespace
`Layout` below, and both decoder and encoder read it. R90: a word's address, and for a BACKTAB word the display
mode, decide its format. -/

namespace Sys2Proof

/-- A field of `n` bits whose lowest bit is bit `lo` of the word (R10). -/
structure Field (n : Nat) where
  lo : Nat

/-- The field of a word: w[lo+n-1 : lo], unsigned (R10). -/
def Field.get {n : Nat} (f : Field n) (w : Word) : BitVec n := w.extractLsb' f.lo n

/-- A word that holds `v` in the field and 0 elsewhere. -/
def Field.put {n : Nat} (f : Field n) (v : BitVec n) : Word := v.setWidth 16 <<< f.lo

/-- A one-bit field as a flag. -/
def Field.flag (f : Field 1) (w : Word) : Bool := w.getLsbD f.lo

/-- A word that holds a flag in a one-bit field and 0 elsewhere. -/
def Field.putFlag (f : Field 1) (b : Bool) : Word := f.put (BitVec.ofBool b)

/-! ## The layout table -/

namespace Layout

/-- F_BT_FGBG, F_BT_CS: foreground bits 2:0 (R91, R92). -/
def btFg : Field 3 := ⟨0⟩
/-- F_BT_FGBG, and F_BT_CS from GRAM: the 6-bit card (R91, R92). -/
def btCard6 : Field 6 := ⟨3⟩
/-- F_BT_CS from GROM: the 8-bit card (R92). -/
def btCard8 : Field 8 := ⟨3⟩
/-- F_BT_FGBG: the four scattered background bits (R91). -/
def btBg0 : Field 1 := ⟨9⟩
def btBg1 : Field 1 := ⟨10⟩
def btBg2 : Field 1 := ⟨12⟩
def btBg3 : Field 1 := ⟨13⟩
/-- F_BT_FGBG: GRAM (R91). -/
def btGram : Field 1 := ⟨11⟩
/-- Color-stack mode: the sub-mode field w[12:11] (R94). -/
def btSubMode : Field 2 := ⟨11⟩
/-- F_BT_CS: ADV (R92). -/
def btAdv : Field 1 := ⟨13⟩
/-- F_BT_CSQ: the square selectors (R93). -/
def csqC0 : Field 3 := ⟨0⟩
def csqC1 : Field 3 := ⟨3⟩
def csqC2 : Field 3 := ⟨6⟩
def csqC3Lo : Field 2 := ⟨9⟩
def csqC3Hi : Field 1 := ⟨13⟩
/-- F_MOBX (R95). -/
def mobXX : Field 8 := ⟨0⟩
def mobXIntr : Field 1 := ⟨8⟩
def mobXVisb : Field 1 := ⟨9⟩
def mobXSize : Field 1 := ⟨10⟩
/-- F_MOBY (R96). -/
def mobYY : Field 7 := ⟨0⟩
def mobYRes : Field 1 := ⟨7⟩
def mobYSize : Field 2 := ⟨8⟩
def mobYXFlip : Field 1 := ⟨10⟩
def mobYYFlip : Field 1 := ⟨11⟩
/-- F_MOBA (R97). -/
def mobAFg : Field 3 := ⟨0⟩
def mobACard : Field 8 := ⟨3⟩
def mobAGram : Field 1 := ⟨11⟩
def mobAFg3 : Field 1 := ⟨12⟩
def mobAPrio : Field 1 := ⟨13⟩
/-- F_MOBC (R98). -/
def mobCMob : Field 8 := ⟨0⟩
def mobCBg : Field 1 := ⟨8⟩
def mobCBorder : Field 1 := ⟨9⟩
/-- F_CSTK and F_BORDER: COLOR (R99, R100). -/
def cstkColor : Field 4 := ⟨0⟩
def borderColor : Field 4 := ⟨0⟩
/-- F_HDLY and F_VDLY: DELAY (R101). -/
def delay : Field 3 := ⟨0⟩
/-- F_EXT (R102). -/
def extLeft : Field 1 := ⟨0⟩
def extTop : Field 1 := ⟨1⟩
/-- F_GROW: ROW (R103). -/
def growRow : Field 8 := ⟨0⟩

/-- The foreground index of a MOB, FG = w[12] :: w[2:0] (R97, R105). -/
def mobFg (w : Word) : BitVec 4 := mobAFg3.get w ++ mobAFg.get w
/-- BG = w[13] :: w[12] :: w[10] :: w[9] (R91, R105). -/
def fgbgBg (w : Word) : BitVec 4 := btBg3.get w ++ btBg2.get w ++ btBg1.get w ++ btBg0.get w
/-- C3 = w[13] :: w[10:9] (R93, R105). -/
def csqC3 (w : Word) : BitVec 3 := csqC3Hi.get w ++ csqC3Lo.get w

end Layout

/-! ## The cells the core reads, and the address map of R32 -/

/-- A cell of shared memory that the core reads, named by its place in the map of R32. -/
inductive Cell where
  | mobX (i : Fin 8)
  | mobY (i : Fin 8)
  | mobA (i : Fin 8)
  | mobColl (i : Fin 8)
  | cstk (slot : Fin 4)
  | border
  | hdelay
  | vdelay
  | extend
  | backtab (n : Fin 240)
  | graphic (o : Fin 0xA00)
  deriving DecidableEq, Repr

/-- The address of a cell (R32). BACKTAB is R110's formula, 0x200 to 0x2EF (log entry 2). -/
def Cell.addr : Cell → Nat
  | .mobX i => 0x00 + i.val
  | .mobY i => 0x08 + i.val
  | .mobA i => 0x10 + i.val
  | .mobColl i => 0x18 + i.val
  | .cstk k => 0x28 + k.val
  | .border => 0x2C
  | .hdelay => 0x30
  | .vdelay => 0x31
  | .extend => 0x32
  | .backtab n => 0x200 + n.val
  | .graphic o => 0x3000 + o.val

/-- The cell at an address; `none` for a cell the core never reads or writes (R61) and beyond the map. BACKTAB ends at
0x2EF, as R110's formula does, and not at the 0x2D7 of R61 (log entry 2). -/
def Cell.ofAddr (a : Nat) : Option Cell :=
  if h : a < 0x08 then some (.mobX ⟨a, h⟩)
  else if h : a < 0x10 then some (.mobY ⟨a - 0x08, by omega⟩)
  else if h : a < 0x18 then some (.mobA ⟨a - 0x10, by omega⟩)
  else if h : a < 0x20 then some (.mobColl ⟨a - 0x18, by omega⟩)
  else if h : 0x28 ≤ a ∧ a < 0x2C then some (.cstk ⟨a - 0x28, by omega⟩)
  else if a = 0x2C then some .border
  else if a = 0x30 then some .hdelay
  else if a = 0x31 then some .vdelay
  else if a = 0x32 then some .extend
  else if h : 0x200 ≤ a ∧ a < 0x2F0 then some (.backtab ⟨a - 0x200, by omega⟩)
  else if h : 0x3000 ≤ a ∧ a < 0x3A00 then some (.graphic ⟨a - 0x3000, by omega⟩)
  else none

/-! ## The decoder -/

/-- Why a word is not decoded: the core reads no word at this address (R61). -/
inductive DecodeError where
  | notDecoded (addr : Nat)
  deriving DecidableEq, Repr

/-- A BACKTAB word in FG/BG mode (R91, R151). -/
def decodeFgbg (n : Fin 240) (w : Word) : Instr :=
  .btFgbgCard n (Layout.btFg.get w) (Layout.btCard6.get w) (Layout.fgbgBg w) (Layout.btGram.flag w)

/-- A BACKTAB word in color-stack mode: the sub-mode w[12:11] selects (R92, R93, R94). -/
def decodeCs (n : Fin 240) (w : Word) : Instr :=
  if Layout.btSubMode.get w = 0 then
    .btCsCardGrom n (Layout.btFg.get w) (Layout.btCard8.get w) (Layout.btAdv.flag w)
  else if Layout.btSubMode.get w = 1 then
    .btCsCardGram n (Layout.btFg.get w) (Layout.btCard6.get w) (Layout.btAdv.flag w)
  else if Layout.btSubMode.get w = 2 then
    .btCsSquares n (Layout.csqC0.get w) (Layout.csqC1.get w) (Layout.csqC2.get w) (Layout.csqC3 w)
  else
    .btCsCardGramFg3 n (Layout.btFg.get w) (Layout.btCard6.get w) (Layout.btAdv.flag w)

/-- The instruction that a word read from a cell is, in display mode `modeq` (R90 to R103, R107). -/
def decodeCell (modeq : Bool) (c : Cell) (w : Word) : Instr :=
  match c with
  | .mobX i =>
      .mobX i (Layout.mobXX.get w) (Layout.mobXIntr.flag w) (Layout.mobXVisb.flag w) (Layout.mobXSize.flag w)
  | .mobY i =>
      .mobY i (Layout.mobYY.get w) (Layout.mobYRes.flag w) (Layout.mobYSize.get w)
        (Layout.mobYXFlip.flag w) (Layout.mobYYFlip.flag w)
  | .mobA i =>
      .mobA i (Layout.mobFg w) (Layout.mobACard.get w) (Layout.mobAGram.flag w) (Layout.mobAPrio.flag w)
  | .mobColl i => .mobColl i (Layout.mobCMob.get w) (Layout.mobCBg.flag w) (Layout.mobCBorder.flag w)
  | .cstk k => .cstkEntry k (Layout.cstkColor.get w)
  | .border => .borderColor (Layout.borderColor.get w)
  | .hdelay => .hdelay (Layout.delay.get w)
  | .vdelay => .vdelay (Layout.delay.get w)
  | .extend => .extend (Layout.extLeft.flag w) (Layout.extTop.flag w)
  | .backtab n => if modeq then decodeCs n w else decodeFgbg n w
  | .graphic o => .graphicRow (0x3000 + o.val) (Layout.growRow.get w)

/-- Decoding at an address: total, and by name where the core reads no word. -/
def decode (modeq : Bool) (a : Nat) (w : Word) : Except DecodeError Instr :=
  match Cell.ofAddr a with
  | some c => .ok (decodeCell modeq c w)
  | none => .error (.notDecoded a)

/-! ## The encoder (R91 to R103, and the word forms of R109) -/

/-- The common part of the three F_BT_CS rows: fg, adv and the sub-mode (R92, R94). -/
def encodeCsCommon (fg : BitVec 3) (sub : BitVec 2) (adv : Bool) : Word :=
  Layout.btFg.put fg ||| Layout.btSubMode.put sub ||| Layout.btAdv.putFlag adv

/-- The word of an instruction, ignored bits 0; `none` for the host command (R104). -/
def encodeWord : Instr → Option Word
  | .btFgbgCard _ fg card bg gram =>
      some (Layout.btFg.put fg ||| Layout.btCard6.put card ||| Layout.btBg0.put (bg.extractLsb' 0 1) |||
        Layout.btBg1.put (bg.extractLsb' 1 1) ||| Layout.btBg2.put (bg.extractLsb' 2 1) |||
        Layout.btBg3.put (bg.extractLsb' 3 1) ||| Layout.btGram.putFlag gram)
  | .btCsCardGrom _ fg card adv => some (encodeCsCommon fg 0 adv ||| Layout.btCard8.put card)
  | .btCsCardGram _ fg card adv => some (encodeCsCommon fg 1 adv ||| Layout.btCard6.put card)
  | .btCsCardGramFg3 _ fg card adv => some (encodeCsCommon fg 3 adv ||| Layout.btCard6.put card)
  | .btCsSquares _ c0 c1 c2 c3 =>
      some (Layout.csqC0.put c0 ||| Layout.csqC1.put c1 ||| Layout.csqC2.put c2 |||
        Layout.csqC3Lo.put (c3.extractLsb' 0 2) ||| Layout.csqC3Hi.put (c3.extractLsb' 2 1) |||
        Layout.btSubMode.put 2)
  | .mobX _ x intr visb xsize =>
      some (Layout.mobXX.put x ||| Layout.mobXIntr.putFlag intr ||| Layout.mobXVisb.putFlag visb |||
        Layout.mobXSize.putFlag xsize)
  | .mobY _ y yres ysize xflip yflip =>
      some (Layout.mobYY.put y ||| Layout.mobYRes.putFlag yres ||| Layout.mobYSize.put ysize |||
        Layout.mobYXFlip.putFlag xflip ||| Layout.mobYYFlip.putFlag yflip)
  | .mobA _ fg card gram prio =>
      some (Layout.mobAFg.put (fg.extractLsb' 0 3) ||| Layout.mobACard.put card ||| Layout.mobAGram.putFlag gram |||
        Layout.mobAFg3.put (fg.extractLsb' 3 1) ||| Layout.mobAPrio.putFlag prio)
  | .mobColl _ mob bg border =>
      some (Layout.mobCMob.put mob ||| Layout.mobCBg.putFlag bg ||| Layout.mobCBorder.putFlag border)
  | .cstkEntry _ color => some (Layout.cstkColor.put color)
  | .borderColor color => some (Layout.borderColor.put color)
  | .hdelay d => some (Layout.delay.put d)
  | .vdelay d => some (Layout.delay.put d)
  | .extend left top => some (Layout.extLeft.putFlag left ||| Layout.extTop.putFlag top)
  | .graphicRow _ row => some (Layout.growRow.put row)
  | .renderFrame => none

/-- The address an instruction's word stands at; `none` for the host command (R32, R110). -/
def encodeAddr : Instr → Option Nat
  | .btFgbgCard n .. | .btCsCardGrom n .. | .btCsCardGram n .. | .btCsCardGramFg3 n .. | .btCsSquares n .. =>
      some (Cell.backtab n).addr
  | .mobX i .. => some (Cell.mobX i).addr
  | .mobY i .. => some (Cell.mobY i).addr
  | .mobA i .. => some (Cell.mobA i).addr
  | .mobColl i .. => some (Cell.mobColl i).addr
  | .cstkEntry k _ => some (Cell.cstk k).addr
  | .borderColor _ => some Cell.border.addr
  | .hdelay _ => some Cell.hdelay.addr
  | .vdelay _ => some Cell.vdelay.addr
  | .extend .. => some Cell.extend.addr
  | .graphicRow a _ => some a
  | .renderFrame => none

/-- The address and the word of a word instruction; `none` for the host command. -/
def encode (i : Instr) : Option (Nat × Word) :=
  match encodeAddr i, encodeWord i with
  | some a, some w => some (a, w)
  | _, _ => none

/-! ## The host's table words -/

/-- The instruction read from bits numbered as spec/opcode_table.json numbers them.

A table word has no address, and the address decides the format (R90), so the length stands in for it (log
entry 9): no bits at all are the host command (R104); up to 8 bits are the border color at 0x2C, the first word
a LINE reads; up to 16 bits are a BACKTAB word of color-stack mode, the one format the bits themselves tell
apart (R94). No longer form exists (R108). -/
def decodeTableWord (nbits w : Nat) : Option Instr :=
  if nbits = 0 then some .renderFrame
  else if nbits ≤ 8 then (decode true Cell.border.addr (BitVec.ofNat 16 w)).toOption
  else if nbits ≤ 16 then (decode true (Cell.backtab 0).addr (BitVec.ofNat 16 w)).toOption
  else none

end Sys2Proof
end

