-- ==== Sys2Proof/Machine/State.lean ====
section
/-! DEFINITION. The machine's state: everything 10_state.md gives it, the host's side of the interface, and three
fields of the model's own (`inbox`, `unit`, `use`; log entries 7 and 8). All of it is plain data. -/

namespace Sys2Proof.Machine

/-! ## Why a step can stop -/

/-- A fault. There is none: the core raises no exception, fault or error code in any case (R260), so the type has
no constructor and no step can answer one. Safe. -/
inductive Fault where
  deriving DecidableEq, Repr

/-- A refusal. -/
inductive Refusal where
  /-- `exec`'s arm of an instruction that has no meaning yet (none is left). Safe. -/
  | notModelled (mnemonic : String)
  /-- RENDER_FRAME while SEQ is not IDLE: it has no defined meaning, and a model refuses it (R247; D20). Safe. -/
  | renderInProgress
  deriving DecidableEq, Repr

/-! ## Shared memory (R32, R60) -/

/-- Shared memory: 16-bit cells by cell address. `cells` lists the cells the host or the core has written;
`base` is what the host filled every other cell with, `none` where it has not said (log entry 3). -/
structure Memory where
  base  : Option Word
  cells : List (Nat × Word)
  deriving DecidableEq, Repr

/-- What an unlisted cell reads as: the host's fill, or else whatever host memory holds, a free value (R282). -/
def Memory.unlisted (m : Memory) (a : Nat) : Word :=
  match m.base with
  | some v => v
  | none => Config.unwrittenCell a

/-- Addresses strictly rising. -/
def Memory.rising : List (Nat × Word) → Bool
  | [] => true
  | [_] => true
  | c :: d :: l => decide (c.1 < d.1) && Memory.rising (d :: l)

/-- The canonical form: addresses strictly rising, and no entry equal to the fill, where there is one. -/
def Memory.wf (m : Memory) : Bool :=
  Memory.rising m.cells &&
    match m.base with
    | some v => m.cells.all (fun c => decide (c.2 ≠ v))
    | none => true

/-! ## The sequencer and the host (R28, R241, R266) -/

/-- SEQ (R28). -/
inductive Seq where
  | idle
  | rendering (line : Fin 112)
  | finalizing
  deriving DecidableEq, Repr

/-- A move of the host (R266), taken only while SEQ = IDLE. Reading FRAME changes nothing and is no move. -/
inductive HostMove where
  /-- Write a cell of shared memory. -/
  | write (a : Nat) (v : Word)
  /-- Set the MODE input. -/
  | setMode (m : Int)
  /-- The command RENDER_FRAME. -/
  | renderFrame
  deriving DecidableEq, Repr

/-! ## The MOB record (R181) and what a fetched word is for -/

/-- The sprite-unit record of MOB_DECODE (R181), with the two graphic bytes of MOB_ROWS (R187 to R189). -/
structure Mob where
  x     : BitVec 8
  intr  : Bool
  visb  : Bool
  xsize : Bool
  y     : BitVec 7
  yres  : Bool
  ysize : BitVec 2
  xflip : Bool
  yflip : Bool
  fg    : BitVec 4
  card  : BitVec 8
  gram  : Bool
  prio  : Bool
  /-- b0, the byte of copy 0. -/
  b0    : Byte
  /-- b1, the byte of copy 1. -/
  b1    : Byte
  deriving DecidableEq, Repr

/-- The record of no MOB: x = 0, which is disabled (R182). -/
def Mob.blank : Mob :=
  { x := 0, intr := false, visb := false, xsize := false, y := 0, yres := false, ysize := 0, xflip := false,
    yflip := false, fg := 0, card := 0, gram := false, prio := false, b0 := 0, b1 := 0 }

/-- What the operation under way does with the operand word it reads next: the arguments the pseudocode passes
on (R31). It is `nothing` outside that moment. -/
inductive RowUse where
  | nothing
  /-- A graphic row of a background card: PAINT_CARD_ROW(col, g, fg, bg) (R152, R153). -/
  | cardRow (col : Fin 20) (fg bg : PalIdx)
  /-- A graphic row of a MOB, for copy 0, for copy 1, or for both (R187, R188). -/
  | mobRow (copy0 copy1 : Bool)
  /-- A color-stack entry as a card's background: CACHE_BG[col] (R161). -/
  | cardBackground (col : Fin 20)
  /-- A color-stack entry as the proxy of palette slot 7: SQ_OVERRIDE (R132). -/
  | squareOverride
  deriving DecidableEq, Repr

/-- What compositing one MOB into one copy carries from pixel to pixel: the value of its collision register,
whether a MemWrite of that register was issued, and the copy's two buffer rows (R191, R192). -/
structure Canvas where
  reg   : Word
  wrote : Bool
  color : Row Color
  coll  : Row Mask
  deriving DecidableEq, Repr

/-! ## The state -/

/-- The state of the core and of the host's side of its interface. -/
structure State where
  /-- Shared memory (R32). -/
  mem     : Memory
  /-- MODE, the host's display-mode input (R34; D5). -/
  mode    : Int
  /-- The open parameters (R9); no step writes them. -/
  params  : Params
  /-- VD, the vertical delay 8..15 (R21). -/
  vd      : Nat
  /-- HD, the horizontal delay 16..30, even (R21). -/
  hd      : Nat
  /-- ET, the extend-top flag (R21). -/
  et      : Bool
  /-- EL, the extend-left flag (R21). -/
  el      : Bool
  /-- MODEQ, true in color-stack mode (R21). -/
  modeq   : Bool
  /-- CSP, the color stack pointer: an absolute address 0x28..0x2B (R22; D31). -/
  csp     : Nat
  /-- CACHE_FG (R23). -/
  cacheFg : Vector PalIdx 20
  /-- CACHE_BG (R23). -/
  cacheBg : Vector PalIdx 20
  /-- PAL7, palette slot 7 (R24). -/
  pal7    : Color
  /-- CBUF, the color working buffer (R25). -/
  cbuf    : Copies Color
  /-- BBUF, the collision working buffer (R26). -/
  bbuf    : Copies Mask
  /-- FRAME, the output frame, row by row (R27). -/
  frame   : Vector (Row Color) 224
  /-- SEQ, the sequencer (R28). -/
  seq     : Seq
  /-- The model's own: the host's moves not yet taken, oldest first (log entry 7). -/
  inbox   : List HostMove
  /-- The model's own: the MOB record while SPRITES works on one MOB, blank otherwise (R29, R181; log entry 8). -/
  unit    : Mob
  /-- The model's own: what the word being fetched is for (log entry 8). -/
  use     : RowUse
  deriving DecidableEq, Repr

/-- PALETTE[1..15] as the implementation has it, free (R130; log entry 4), with the suggested defaults of the
two other open parameters (R9). -/
def paramsAtPowerOn : Params :=
  { palette1to15 := vecTabulate 15 Config.paletteEntry
    dwTagOffsets := Config.dwTagDefault
    col167Cells := Config.col167Default }

/-- The state right after power-on reset (R35, R280). -/
def State.reset : State :=
  { mem := { base := none, cells := [] }
    mode := Config.modeAtPowerOn
    params := paramsAtPowerOn
    vd := 8
    hd := 16
    et := false
    el := false
    modeq := false
    csp := 0x28
    cacheFg := vecTabulate 20 Config.cacheFgAtPowerOn
    cacheBg := vecTabulate 20 Config.cacheBgAtPowerOn
    pal7 := Config.paletteEntry 6
    cbuf := Copies.fill 0
    bbuf := Copies.fill 0
    frame := vecTabulate 224 (fun y => vecTabulate 352 (fun x => Config.frameAtPowerOn y x))
    seq := .idle
    inbox := []
    unit := Mob.blank
    use := .nothing }

end Sys2Proof.Machine
end

