-- ==== Sys2Proof/Machine/Flags.lean ====
section
/-! DEFINITION. Collision bits: the only flag-like values of this core, which has no condition flags (R31).

The bits of a BBUF cell and of a collision register are the same ones (R26, R98; D11). -/

namespace Sys2Proof.Machine

/-- Bit 8, the background collision bit (R26). -/
def bgBit : Mask := 0x100#10

/-- Bit 9, the border collision bit (R26, R144). -/
def borderBit : Mask := 0x200#10

/-- Bit i, the tag of MOB i (R26, R191). -/
def mobBit (i : Fin 8) : Mask := 1#10 <<< i.val

/-- A BBUF cell as it is ORed into a 16-bit collision register (R191). -/
def maskToReg (m : Mask) : Word := m.setWidth 16

/-- The cell of MOB i's collision register (R32). -/
def collAddr (i : Fin 8) : Nat := 0x18 + i.val

/-- The register bit that stands for MOB i (R98). -/
def regBit (i : Fin 8) : Word := 1#16 <<< i.val

/-- The collision register that MOB_COLL read: its decoded fields over the kept bits 15:10 (R33, R98). -/
def collReg (old : Word) (mob : BitVec 8) (bg border : Bool) : Word :=
  (old &&& 0xFC00#16) ||| Layout.mobCMob.put mob ||| Layout.mobCBg.putFlag bg ||| Layout.mobCBorder.putFlag border

end Sys2Proof.Machine
end

