-- ==== Sys2Proof/Machine/Operands.lean ====
section
/-! DEFINITION. Assembled operands (R105) and the geometry of the buffers (R140 to R143, R182 to R190, R230,
R231, R234).

Arithmetic is on integers (R11). Columns may fall outside the buffer; `clip` drops those (R234). -/

namespace Sys2Proof.Machine

/-! ## Graphic addresses -/

/-- The first graphic cell of the selected source: GRAM 0x3800, GROM 0x3000 (R105; D3). -/
def graphicBase (gram : Bool) : Nat := if gram then 0x3800 else 0x3000

/-- Graphic address: base + 8*card + row (R105). -/
def graphicAddr (gram : Bool) (card row : Nat) : Nat := graphicBase gram + 8 * card + row

/-! ## BACKTAB geometry (R110) -/

/-- The card column of a BACKTAB cell. -/
def backtabCol (n : Fin 240) : Fin 20 := ⟨n.val % 20, Nat.mod_lt _ (by decide)⟩

/-- The BACKTAB cell of card row `r` and column `c` (R110). -/
def backtabCell (r : Fin 12) (c : Fin 20) : Fin 240 := ⟨20 * r.val + c.val, by omega⟩

/-! ## Columns (R230, R231, R234) -/

/-- BGX(col, b) = HD + 16*col + 2*b (R230). -/
def bgx (hd col b : Nat) : Nat := hd + 16 * col + 2 * b

/-- The pixel of card column `col` that buffer column `x` belongs to, if it belongs to one: the pixels cover
BGX and BGX + 1 (R230). -/
def cardPixel (hd col x : Nat) : Option Nat :=
  if bgx hd col 0 ≤ x ∧ x < bgx hd col 8 then some ((x - bgx hd col 0) / 2) else none

/-- SPRX(x, p, w) = HD + 2*(x - 8) + w*p (R231). -/
def sprx (hd x p w : Nat) : Int := (hd : Int) + 2 * ((x : Int) - 8) + (w : Int) * (p : Int)

/-- A column inside [0, 352), or nothing (R234). -/
def clip (c : Int) : Option Nat := if 0 ≤ c ∧ c < 352 then some c.toNat else none

/-! ## The border's columns (R140, R142, R143) -/

/-- FULLWIDTH(line) (R142). -/
def fullWidth (vd : Nat) (et : Bool) (line : Int) : Bool :=
  decide (line < (vd : Int) + 8 * (et.toNat : Int)) || decide ((vd : Int) + 96 ≤ line)

/-- Does the border paint column `x` on this line (R140, R142, R143)? -/
def inBorder (vd hd : Nat) (et el : Bool) (line : Int) (x : Nat) : Bool :=
  fullWidth vd et line || decide (x < hd + 16 * el.toNat) || decide (hd + 320 ≤ x)

/-! ## MOB operands -/

/-- MOB_ENABLED (R182). -/
def Mob.enabled (u : Mob) : Bool :=
  decide (u.x.toNat ≠ 0) && decide (u.x.toNat ≤ 167) && (u.visb || u.intr)

/-- H, the height in sprite lines (R183). -/
def Mob.height (u : Mob) : Nat := 4 <<< u.ysize.toNat <<< u.yres.toNat

/-- R, the number of graphic rows (R183). -/
def Mob.rows (u : Mob) : Nat := 8 <<< u.yres.toNat

/-- d = sl - y (R180). -/
def Mob.offset (u : Mob) (sl : Int) : Int := sl - (u.y.toNat : Int)

/-- Active on sprite line `sl`: 0 <= d < H (R184). -/
def Mob.onLine (u : Mob) (sl : Int) : Bool :=
  decide (0 ≤ u.offset sl) && decide (u.offset sl < (u.height : Int))

/-- The card number: masked to 6 bits from GRAM, low bit cleared with YRES (R186). -/
def Mob.cardNumber (u : Mob) : BitVec 8 :=
  let c := if u.gram then u.card &&& 0x3F#8 else u.card
  if u.yres then c &&& 0xFE#8 else c

/-- MOB_BASE (R186). -/
def Mob.base (u : Mob) : Nat := graphicBase u.gram + 8 * u.cardNumber.toNat

/-- The first of the two rows the smallest size class shows at offset d (R187). -/
def Mob.smallRow (u : Mob) (d : Nat) : Nat := if u.yflip then u.rows - 2 - 2 * d else 2 * d

/-- The row the other size classes show at offset d (R188). -/
def Mob.largeRow (u : Mob) (d : Nat) : Nat :=
  let r := d >>> (u.ysize.toNat - 1)
  if u.yflip then u.rows - 1 - r else r

/-- w, the columns of a MOB pixel: 4 with double width, else 2 (R190). -/
def Mob.pixelWidth (u : Mob) : Nat := if u.xsize then 4 else 2

/-- D(p): the draw cells of pixel p inside the buffer (R190, R234). -/
def Mob.drawCols (u : Mob) (hd p : Nat) : List Nat :=
  (List.range u.pixelWidth).filterMap (fun (m : Nat) => clip (sprx hd u.x.toNat p u.pixelWidth + (m : Int)))

/-- T(p): the tag cells of pixel p inside the buffer (R190, R234; D14). -/
def Mob.tagCols (u : Mob) (offsets : Vector Int 4) (hd p : Nat) : List Nat :=
  if u.xsize then offsets.toList.filterMap (fun o => clip (sprx hd u.x.toNat p 4 + o))
  else u.drawCols hd p

/-- The byte a MOB shows in copy `k` (R190). -/
def Mob.byte (u : Mob) : Fin 2 → Byte
  | 0 => u.b0
  | 1 => u.b1

/-! ## Where the state stands -/

/-- The raster line being rendered (R28). -/
def State.line (s : State) : Option Nat :=
  match s.seq with
  | .rendering n => some n.val
  | .idle | .finalizing => none

/-- The background line bl = line - VD, inside the window VD <= line < VD + 96 (R243, R244). -/
def State.bgLine (s : State) : Option Nat :=
  match s.line with
  | some n => if s.vd ≤ n ∧ n < s.vd + 96 then some (n - s.vd) else none
  | none => none

/-- The sprite line sl = line + 8 - VD (R245). -/
def State.spriteLine (s : State) : Option Int :=
  match s.line with
  | some n => some ((n : Int) + 8 - (s.vd : Int))
  | none => none

end Sys2Proof.Machine
end

