-- ==== Sys2Proof/Machine/Ops.lean ====
section
/-! DEFINITION. The named operations over memory, palette and buffers that the meanings share.

There is no exception to take and none to return from: the core raises nothing and saves nothing (R260, R261,
R263), so this file holds no such operation. -/

namespace Sys2Proof.Machine

/-! ## Shared memory (R62, R63) -/

/-- The listed value of a cell. -/
def Memory.lookup (a : Nat) : List (Nat × Word) → Option Word
  | [] => none
  | c :: l => if c.1 = a then some c.2 else Memory.lookup a l

/-- M[a], MemRead(a, 1): the whole value of a cell, without side effect (R62). -/
def Memory.read (m : Memory) (a : Nat) : Word :=
  match Memory.lookup a m.cells with
  | some v => v
  | none => m.unlisted a

/-- List a cell, at its place in rising order. -/
def Memory.insert (a : Nat) (v : Word) : List (Nat × Word) → List (Nat × Word)
  | [] => [(a, v)]
  | c :: l =>
    if a < c.1 then (a, v) :: c :: l
    else if a = c.1 then (a, v) :: l
    else c :: Memory.insert a v l

/-- Unlist a cell. -/
def Memory.erase (a : Nat) : List (Nat × Word) → List (Nat × Word)
  | [] => []
  | c :: l => if c.1 = a then Memory.erase a l else c :: Memory.erase a l

/-- MemWrite(a, 1, v) (R63), keeping the canonical form: the fill value is not listed. -/
def Memory.write (m : Memory) (a : Nat) (v : Word) : Memory :=
  if m.base = some v then { m with cells := Memory.erase a m.cells }
  else { m with cells := Memory.insert a v m.cells }

/-! ## Palette and bit reversal (R130 to R135) -/

/-- PALETTE[n], the constant table (R130). -/
def paletteColor (p : Params) (n : PalIdx) : Color :=
  if n = 0 then Config.palette0 else p.palette1to15.toList.getD (n.toNat - 1) 0

/-- colorOf(n): slot 7 reads PAL7 (R131). -/
def State.colorOf (s : State) (n : PalIdx) : Color := if n = 7 then s.pal7 else paletteColor s.params n

/-- SQ_OVERRIDE with the stack color `n`: the lookup goes to the constant table (R132). -/
def sqOverride (n : PalIdx) (s : State) : State := { s with pal7 := paletteColor s.params n }

/-- SQ_RESTORE (R133). -/
def sqRestore (s : State) : State := { s with pal7 := paletteColor s.params 7 }

/-- REV[b] = b[0] :: b[1] :: ... :: b[7] (R135). -/
def rev (b : Byte) : Byte :=
  b.extractLsb' 0 1 ++ b.extractLsb' 1 1 ++ b.extractLsb' 2 1 ++ b.extractLsb' 3 1 ++
    b.extractLsb' 4 1 ++ b.extractLsb' 5 1 ++ b.extractLsb' 6 1 ++ b.extractLsb' 7 1

/-! ## The color stack (R164) -/

/-- CSP after one advance: 0x28 + ((CSP - 0x28 + 1) mod 4) (R164; D31). -/
def nextCsp (csp : Nat) : Nat := (csp - 0x28 + 1) % 4 + 0x28

/-- CSP_ADVANCE (R164). -/
def cspAdvance (s : State) : State := { s with csp := nextCsp s.csp }

/-- The color of the stack entry that CSP points at, M[CSP][3:0] (R99, R161). -/
def State.stackColor (s : State) : PalIdx := Layout.cstkColor.get (s.mem.read s.csp)

/-- A color-stack entry arrives: it becomes a card's background (R161) or the proxy of slot 7 (R132). -/
def stackWord (color : PalIdx) (s : State) : State :=
  match s.use with
  | .cardBackground col => { s with cacheBg := s.cacheBg.set col.val color col.isLt, use := .nothing }
  | .squareOverride => { sqOverride color s with use := .nothing }
  | .nothing | .cardRow .. | .mobRow .. => s

/-! ## Painting (R140, R153, R163, R233) -/

/-- Paint the border's columns of a line in both copies and tag them (R140, R141, R144). -/
def paintBorder (line : Int) (c : PalIdx) (s : State) : State :=
  if line < 0 ∨ 111 < line then s
  else
    { s with
      cbuf := s.cbuf.mapCols (fun x v => if inBorder s.vd s.hd s.et s.el line x then s.colorOf c else v)
      bbuf := s.bbuf.mapCols (fun x v => if inBorder s.vd s.hd s.et s.el line x then v ||| borderBit else v) }

/-- Paint the eight pixels of one card column in both copies: pixel `b` gets the color `px b`, and the background
collision bit where `tag b` (the shared body of R153 and R163). A pixel without the tag keeps its bits. -/
def paintCard (col : Nat) (px : Nat → Color) (tag : Nat → Bool) (s : State) : State :=
  { s with
    cbuf := s.cbuf.mapCols (fun x v => (cardPixel s.hd col x).elim v px)
    bbuf := s.bbuf.mapCols (fun x v => (cardPixel s.hd col x).elim v (fun b => if tag b then v ||| bgBit else v)) }

/-- PAINT_CARD_ROW(col, g, fg, bg) (R153). -/
def paintCardRow (col : Nat) (g : Byte) (fg bg : PalIdx) (s : State) : State :=
  paintCard col (fun b => if g.getLsbD (7 - b) then s.colorOf fg else s.colorOf bg)
    (fun b => g.getLsbD (7 - b)) s

/-- CLEAR() (R233). -/
def clearBuffers (s : State) : State := { s with cbuf := Copies.fill 0, bbuf := Copies.fill 0 }

/-- COPY_OUT(line) (R232). -/
def copyOut (line : Nat) (s : State) : State :=
  { s with
    frame := (s.frame.setIfInBounds (2 * line) s.cbuf.full).setIfInBounds (2 * line + 1) s.cbuf.second }

/-! ## Graphic rows (R152, R187 to R189) -/

/-- A graphic row arrives: it is painted as a card row (R152, R153), or becomes the MOB's byte of the copies it
was fetched for, mirrored when XFLIP is set (R187, R188, R189). -/
def rowArrives (g : Byte) (s : State) : State :=
  match s.use with
  | .cardRow col fg bg => { paintCardRow col.val g fg bg s with use := .nothing }
  | .mobRow to0 to1 =>
    let b := if s.unit.xflip then rev g else g
    { s with
      unit := { s.unit with b0 := if to0 then b else s.unit.b0, b1 := if to1 then b else s.unit.b1 }
      use := .nothing }
  | .nothing | .cardBackground _ | .squareOverride => s

/-- Fetch the graphic row at an address for a use: M[a][7:0] (R103, R152). -/
def fetchRow (a : Nat) (u : RowUse) (s : State) : State :=
  rowArrives (Layout.growRow.get (s.mem.read a)) { s with use := u }

/-- Fetch the color-stack entry at CSP for a use (R132, R161). -/
def fetchStack (u : RowUse) (s : State) : State := stackWord s.stackColor { s with use := u }

/-! ## MOBs (R185 to R193) -/

/-- The value of buffer column `c`; columns are clipped before they are read (R234). -/
def rowAt {α : Type} (d : α) (r : Row α) (c : Nat) : α := r.toList.getD c d

/-- The column-167 clear: every cell of COL167_CELLS gets BBUF 0 (R185; D15). -/
def clearCol167 (s : State) : State :=
  { s with
    bbuf := s.params.col167Cells.foldl
      (fun b kc =>
        match clip ((s.hd : Int) + kc.2) with
        | some x => b.set kc.1 ((b.get kc.1).setIfInBounds x 0)
        | none => b)
      s.bbuf }

/-- MOB_ROWS at offset d: two rows for the smallest size class (R187), one for the others (R188). -/
def fetchMobRows (d : Nat) (s : State) : State :=
  let u := s.unit
  if u.ysize = 0 then
    fetchRow (u.base + (u.smallRow d + 1)) (.mobRow u.yflip (!u.yflip))
      (fetchRow (u.base + u.smallRow d) (.mobRow (!u.yflip) u.yflip) s)
  else fetchRow (u.base + u.largeRow d) (.mobRow true true) s

/-- Step 1 of MOB_COMPOSITE for one pixel: accumulate over D(p), then tag T(p), if interactive (R191). -/
def mobCollide (i : Fin 8) (u : Mob) (draw tag : List Nat) (cv : Canvas) : Canvas :=
  if u.intr then
    { cv with
      reg := draw.foldl (fun r c => r ||| maskToReg (rowAt 0#10 cv.coll c)) cv.reg
      wrote := cv.wrote || !draw.isEmpty
      coll := tag.foldl (fun b c => b.setIfInBounds c (rowAt 0#10 b c ||| mobBit i)) cv.coll }
  else cv

/-- Step 2 of MOB_COMPOSITE for one pixel: priority and paint (R192). -/
def mobPaint (u : Mob) (color : Color) (draw : List Nat) (cv : Canvas) : Canvas :=
  { cv with
    color := draw.foldl
      (fun b c =>
        if u.prio && (rowAt 0#10 cv.coll c).getLsbD 8 then b
        else if u.visb then b.setIfInBounds c color
        else b)
      cv.color }

/-- Pixel p of MOB i in one copy; a 0 bit runs neither step (R193). -/
def mobPixel (i : Fin 8) (u : Mob) (color : Color) (hd : Nat) (offsets : Vector Int 4) (b : Byte) (cv : Canvas)
    (p : Nat) : Canvas :=
  if b.getLsbD (7 - p) then
    mobPaint u color (u.drawCols hd p) (mobCollide i u (u.drawCols hd p) (u.tagCols offsets hd p) cv)
  else cv

/-- One MOB in copy k: p ascending (R190 to R193). -/
def mobCopy (i : Fin 8) (s : State) (k : Fin 2) (reg : Word) (wrote : Bool) : Canvas :=
  (List.range 8).foldl
    (mobPixel i s.unit (s.colorOf s.unit.fg) s.hd s.params.dwTagOffsets (s.unit.byte k))
    { reg := reg, wrote := wrote, color := s.cbuf.get k, coll := s.bbuf.get k }

/-- MOB_COMPOSITE(i, u, b0, b1) from the register value `reg`: copy 0, then copy 1; the register cell is written
when a MemWrite of R191 was issued (R191 to R193). -/
def mobComposite (i : Fin 8) (reg : Word) (s : State) : State :=
  let c0 := mobCopy i s 0 reg false
  let c1 := mobCopy i s 1 c0.reg c0.wrote
  { s with
    mem := if c1.wrote then s.mem.write (collAddr i) c1.reg else s.mem
    cbuf := { full := c0.color, second := c1.color }
    bbuf := { full := c0.coll, second := c1.coll } }

end Sys2Proof.Machine
end

