-- ==== Sys2Proof/Machine/Collision.lean ====
section
/-! DEFINITION. Family: the collision symmetrizer, FINALIZE (R220 to R223). -/

namespace Sys2Proof.Machine

/-- The eight MOBs in ascending order. -/
def mobsUp : List (Fin 8) := [0, 1, 2, 3, 4, 5, 6, 7]

/-- Pass 1 for one register: clear its self bit (R220). -/
def clearSelf (m : Memory) (i : Fin 8) : Memory :=
  m.write (collAddr i) (m.read (collAddr i) &&& ~~~ regBit i)

/-- Pass 2 for one pair: if i's register has bit j, j's register gets bit i (R221). -/
def mirrorPair (i : Fin 8) (m : Memory) (j : Fin 8) : Memory :=
  if j ≠ i ∧ (m.read (collAddr i)).getLsbD j.val then
    m.write (collAddr j) (m.read (collAddr j) ||| regBit i)
  else m

/-- Pass 2 for one i (R221). -/
def mirrorRow (m : Memory) (i : Fin 8) : Memory := mobsUp.foldl (mirrorPair i) m

/-- FINALIZE: pass 1, then pass 2 (R220, R221; C3). -/
def finalizeMemory (m : Memory) : Memory := mobsUp.foldl mirrorRow (mobsUp.foldl clearSelf m)

/-- FINALIZE on the state (R220, R221). -/
def finalize (s : State) : State := { s with mem := finalizeMemory s.mem }

end Sys2Proof.Machine
end

