-- ==== Sys2Proof/Machine/Background.lean ====
section
/-! DEFINITION. Family: the background renderers (R150 to R166): BACKTAB words in both modes, the color-stack
entry and the graphic row.

A BACKTAB word acts at the background line bl of the state (R244), on sub-row bl mod 8 and in the card column of
its cell (R110). Outside the background window no background operation runs, and the word has no effect (R244). -/

namespace Sys2Proof.Machine

/-! ## FG/BG mode (R150 to R154) -/

/-- The loop body of BG_FGBG for one card on sub-row `sub`: fetch the graphic row and paint it (R150, R152). -/
def fgbgCard (col : Fin 20) (fg : BitVec 3) (card : BitVec 6) (bg : BitVec 4) (gram : Bool) (sub : Nat)
    (s : State) : State :=
  fetchRow (graphicAddr gram card.toNat sub) (.cardRow col (fg.setWidth 4) bg) s

/-- BT_FGBG_CARD (R150, R151). -/
def execBtFgbgCard (n : Fin 240) (fg : BitVec 3) (card : BitVec 6) (bg : BitVec 4) (gram : Bool) (s : State) :
    Host.Outcome State Fault Refusal :=
  match s.bgLine with
  | some bl => .next (fgbgCard (backtabCol n) fg card bg gram (bl % 8) s)
  | none => .next s

/-! ## Color-stack mode (R160 to R162, R164 to R166) -/

/-- CS_CARD step 1, on sub-row 0 only: advance, then cache the stack color and the foreground (R161). -/
def cacheCard (col : Fin 20) (fg : PalIdx) (adv : Bool) (s : State) : State :=
  let s1 := if adv then cspAdvance s else s
  let s2 := fetchStack (.cardBackground col) s1
  { s2 with cacheFg := s2.cacheFg.set col.val fg col.isLt }

/-- CS_CARD(w, col, sub): step 1 on sub-row 0, step 2 on every sub-row (R161, R162). -/
def csCard (col : Fin 20) (fg : PalIdx) (gram : Bool) (card : Nat) (adv : Bool) (sub : Nat) (s : State) : State :=
  let s1 := if sub = 0 then cacheCard col fg adv s else s
  fetchRow (graphicAddr gram card sub) (.cardRow col s1.cacheFg[col] s1.cacheBg[col]) s1

/-- BT_CS_CARD_GROM: a GROM card, 8-bit card number, FG3 = 0 (R92, R161, R162). -/
def execBtCsCardGrom (n : Fin 240) (fg : BitVec 3) (card : BitVec 8) (adv : Bool) (s : State) :
    Host.Outcome State Fault Refusal :=
  match s.bgLine with
  | some bl => .next (csCard (backtabCol n) (fg.setWidth 4) false card.toNat adv (bl % 8) s)
  | none => .next s

/-- BT_CS_CARD_GRAM: a GRAM card, 6-bit card number, FG3 = 0 (R92, R161, R162). -/
def execBtCsCardGram (n : Fin 240) (fg : BitVec 3) (card : BitVec 6) (adv : Bool) (s : State) :
    Host.Outcome State Fault Refusal :=
  match s.bgLine with
  | some bl => .next (csCard (backtabCol n) (fg.setWidth 4) true card.toNat adv (bl % 8) s)
  | none => .next s

/-- BT_CS_CARD_GRAM_FG3: a GRAM card, 6-bit card number, FG3 = 1, so FG = 8 + FG[2:0] (R92, R161, R162). -/
def execBtCsCardGramFg3 (n : Fin 240) (fg : BitVec 3) (card : BitVec 6) (adv : Bool) (s : State) :
    Host.Outcome State Fault Refusal :=
  match s.bgLine with
  | some bl => .next (csCard (backtabCol n) (1#1 ++ fg) true card.toNat adv (bl % 8) s)
  | none => .next s

/-! ## Colored squares (R163) -/

/-- The selector of pixel `b` on sub-row `sub`: upper squares c0, c1 on sub-rows 0..3, lower c2, c3 (R93, R163). -/
def squareSelector (c0 c1 c2 c3 : BitVec 3) (sub b : Nat) : BitVec 3 :=
  if sub < 4 then (if b < 4 then c0 else c1) else (if b < 4 then c2 else c3)

/-- CSQ_CARD(w, col, sub): override, paint, restore, in one step (R163, R283). -/
def csqCard (col : Fin 20) (c0 c1 c2 c3 : BitVec 3) (sub : Nat) (s : State) : State :=
  let s1 := fetchStack .squareOverride s
  sqRestore (paintCard col.val
    (fun b => s1.colorOf ((squareSelector c0 c1 c2 c3 sub b).setWidth 4))
    (fun b => decide (squareSelector c0 c1 c2 c3 sub b ≠ 7)) s1)

/-- BT_CS_SQUARES (R163). -/
def execBtCsSquares (n : Fin 240) (c0 c1 c2 c3 : BitVec 3) (s : State) : Host.Outcome State Fault Refusal :=
  match s.bgLine with
  | some bl => .next (csqCard (backtabCol n) c0 c1 c2 c3 (bl % 8) s)
  | none => .next s

/-! ## The operand words -/

/-- CSTK_ENTRY: the entry goes where the operation that reads it puts it: a card's background (R161) or PAL7
(R132). With no such operation under way it has no effect (log entry 10). -/
def execCstkEntry (_slot : Fin 4) (color : BitVec 4) (s : State) : Host.Outcome State Fault Refusal :=
  .next (stackWord color s)

/-- GRAPHIC_ROW: the row is painted as a card row (R152, R153) or becomes a MOB's byte (R187 to R189). With no
operation that reads it under way it has no effect (log entry 10). -/
def execGraphicRow (_addr : Nat) (row : BitVec 8) (s : State) : Host.Outcome State Fault Refusal :=
  .next (rowArrives row s)

end Sys2Proof.Machine
end

