-- ==== Sys2Proof/Machine/Border.lean ====
section
/-! DEFINITION. Family: the border renderer (R140 to R145). -/

namespace Sys2Proof.Machine

/-- BORDER_COLOR: BORDER of the line being rendered, in this color (R140). Outside RENDERING there is no line, and
no effect (log entry 10). -/
def execBorderColor (color : BitVec 4) (s : State) : Host.Outcome State Fault Refusal :=
  match s.line with
  | some n => .next (paintBorder (n : Int) color s)
  | none => .next s

end Sys2Proof.Machine
end

