-- ==== Sys2Proof/Machine/Control.lean ====
section
/-! DEFINITION. Family: the control registers and the host command (scanline_orchestrator, R240 to R242, R247). -/

namespace Sys2Proof.Machine

/-- HD <- 2 * (8 + DELAY) (R242). -/
def setHdelay (d : BitVec 3) (s : State) : State := { s with hd := 2 * (8 + d.toNat) }

/-- VD <- 8 + DELAY (R242). -/
def setVdelay (d : BitVec 3) (s : State) : State := { s with vd := 8 + d.toNat }

/-- ET <- EXT_TOP, EL <- EXT_LEFT (R242). -/
def setExtend (left top : Bool) (s : State) : State := { s with et := top, el := left }

/-- MODEQ <- (MODE != 0) (R242; D5). -/
def sampleMode (s : State) : State := { s with modeq := decide (s.mode ≠ 0) }

/-- CSP <- 0x28 (R36, R242). -/
def resetCsp (s : State) : State := { s with csp := 0x28 }

/-- HDELAY (R242). LATCH alone reads this word; given to `exec` outside LATCH it sets its latch all the same, in any SEQ,
which is the model's choice (log entry 10). -/
def execHdelay (d : BitVec 3) (s : State) : Host.Outcome State Fault Refusal := .next (setHdelay d s)

/-- VDELAY (R242). Outside LATCH it sets its latch all the same, in any SEQ: the model's choice (log entry 10). -/
def execVdelay (d : BitVec 3) (s : State) : Host.Outcome State Fault Refusal := .next (setVdelay d s)

/-- EXTEND (R242). Outside LATCH it sets its latches all the same, in any SEQ: the model's choice (log entry 10). -/
def execExtend (left top : Bool) (s : State) : Host.Outcome State Fault Refusal := .next (setExtend left top s)

/-- LATCH: the three control words, the MODE sample and the CSP reset (R242). -/
def latch (s : State) : State :=
  resetCsp (sampleMode
    (setExtend (Layout.extLeft.flag (s.mem.read Cell.extend.addr)) (Layout.extTop.flag (s.mem.read Cell.extend.addr))
      (setHdelay (Layout.delay.get (s.mem.read Cell.hdelay.addr))
        (setVdelay (Layout.delay.get (s.mem.read Cell.vdelay.addr)) s))))

/-- RENDER_FRAME: accepted in IDLE, where it latches and enters RENDERING(0) (R240, R241); in any other state it
has no defined meaning and is refused (R247; D20). -/
def execRenderFrame (s : State) : Host.Outcome State Fault Refusal :=
  match s.seq with
  | .idle => .next { latch s with seq := .rendering 0 }
  | .rendering _ | .finalizing => .refused .renderInProgress

end Sys2Proof.Machine
end

