-- ==== Sys2Proof/Machine/Sprites.lean ====
section
/-! DEFINITION. Family: the sprite compositor (R180 to R194).

SPRITES reads, for each MOB, its X, Y and attribute words, which build the record of MOB_DECODE (R181), and then its
collision register, on which the rest of the loop body of R180 runs: enable, size, active test, column-167 clear,
rows, composite. -/

namespace Sys2Proof.Machine

/-- MOB_X: the X fields of the record (R95, R181). MOB_DECODE alone reads this word; given to `exec` outside it, it sets
its fields all the same, in any SEQ, which is the model's choice (log entry 10). -/
def execMobX (_i : Fin 8) (x : BitVec 8) (intr visb xsize : Bool) (s : State) : Host.Outcome State Fault Refusal :=
  .next { s with unit := { s.unit with x := x, intr := intr, visb := visb, xsize := xsize } }

/-- MOB_Y: the Y fields of the record (R96, R181). Outside MOB_DECODE it sets them all the same, in any SEQ: the model's
choice (log entry 10). -/
def execMobY (_i : Fin 8) (y : BitVec 7) (yres : Bool) (ysize : BitVec 2) (xflip yflip : Bool) (s : State) :
    Host.Outcome State Fault Refusal :=
  .next { s with unit := { s.unit with y := y, yres := yres, ysize := ysize, xflip := xflip, yflip := yflip } }

/-- MOB_A: the attribute fields of the record (R97, R181). Outside MOB_DECODE it sets them all the same, in any SEQ: the
model's choice (log entry 10). -/
def execMobA (_i : Fin 8) (fg : BitVec 4) (card : BitVec 8) (gram prio : Bool) (s : State) :
    Host.Outcome State Fault Refusal :=
  .next { s with unit := { s.unit with fg := fg, card := card, gram := gram, prio := prio } }

/-- The loop body of SPRITES(sl) after MOB_DECODE, for MOB i with collision register `reg` (R180, R182 to R193). -/
def mobPass (i : Fin 8) (reg : Word) (sl : Int) (s : State) : State :=
  if s.unit.enabled && s.unit.onLine sl then
    mobComposite i reg (fetchMobRows (s.unit.offset sl).toNat (clearCol167 s))
  else s

/-- MOB_COLL: the MOB of the record is composited against this register, and the record is dropped, for it is
never stored (R29, R181, R191). Outside RENDERING there is no sprite line, and no effect (log entry 10). -/
def execMobColl (i : Fin 8) (mob : BitVec 8) (bg border : Bool) (s : State) : Host.Outcome State Fault Refusal :=
  match s.spriteLine with
  | some sl =>
    .next { mobPass i (collReg (s.mem.read (collAddr i)) mob bg border) sl s with unit := Mob.blank }
  | none => .next s

end Sys2Proof.Machine
end

