-- ==== Sys2Proof/Machine/Dispatch.lean ====
section
/-! DEFINITION. exec: one arm per instruction, each one direct call of its meaning. -/

namespace Sys2Proof.Machine

def exec (i : Instr) (s : State) : Host.Outcome State Fault Refusal :=
  match i with
  | .btFgbgCard n fg card bg gram => Sys2Proof.Machine.execBtFgbgCard n fg card bg gram s
  | .btCsCardGrom n fg card adv => Sys2Proof.Machine.execBtCsCardGrom n fg card adv s
  | .btCsCardGram n fg card adv => Sys2Proof.Machine.execBtCsCardGram n fg card adv s
  | .btCsCardGramFg3 n fg card adv => Sys2Proof.Machine.execBtCsCardGramFg3 n fg card adv s
  | .btCsSquares n c0 c1 c2 c3 => Sys2Proof.Machine.execBtCsSquares n c0 c1 c2 c3 s
  | .mobX k x intr visb xsize => Sys2Proof.Machine.execMobX k x intr visb xsize s
  | .mobY k y yres ysize xflip yflip => Sys2Proof.Machine.execMobY k y yres ysize xflip yflip s
  | .mobA k fg card gram prio => Sys2Proof.Machine.execMobA k fg card gram prio s
  | .mobColl k mob bg border => Sys2Proof.Machine.execMobColl k mob bg border s
  | .cstkEntry slot color => Sys2Proof.Machine.execCstkEntry slot color s
  | .borderColor color => Sys2Proof.Machine.execBorderColor color s
  | .hdelay d => Sys2Proof.Machine.execHdelay d s
  | .vdelay d => Sys2Proof.Machine.execVdelay d s
  | .extend left top => Sys2Proof.Machine.execExtend left top s
  | .graphicRow a row => Sys2Proof.Machine.execGraphicRow a row s
  | .renderFrame => Sys2Proof.Machine.execRenderFrame s

end Sys2Proof.Machine
end

