-- ==== Sys2Proof/Machine/Sequencer.lean ====
section
/-! DEFINITION. The scanline orchestrator: LINE, the transitions of SEQ, and the host's turn (R241 to R246, R266).

A LINE runs words: each is read from its cell, decoded in the latched display mode, and executed by `exec`. -/

namespace Sys2Proof.Machine

/-- The state after an instruction. A word of shared memory never stops (R106, R107, R260), and LINE runs only
words, so the two stopping outcomes do not arise there. -/
def after (i : Instr) (s : State) : State :=
  match exec i s with
  | .next t => t
  | .fault _ => s
  | .refused _ => s

/-- The instruction at a cell: its word, decoded in the latched display mode (R62, R90). -/
def State.instrAt (s : State) (c : Cell) : Instr := decodeCell s.modeq c (s.mem.read c.addr)

/-- Read, decode and execute the word of one cell. -/
def runCell (s : State) (c : Cell) : State := after (s.instrAt c) s

/-- BORDER(line) for the line being rendered: the word at 0x2C (R140). -/
def border (s : State) : State := runCell s .border

/-- The 20 BACKTAB cells of the card row of background line `bl`, left to right (R110, R150, R160; log entry 2). -/
def backgroundCells (bl : Nat) : List Cell :=
  (List.finRange 20).map (fun c => .backtab (backtabCell ⟨(bl / 8) % 12, Nat.mod_lt _ (by decide)⟩ c))

/-- The background of the line being rendered, inside the window only (R243 step 2, R244). In color-stack mode CSP
is reset at background line 0 (R160). -/
def background (s : State) : State :=
  match s.bgLine with
  | some bl =>
    let s1 := if s.modeq && decide (bl = 0) then resetCsp s else s
    (backgroundCells bl).foldl runCell s1
  | none => s

/-- The MOBs in the order SPRITES takes them, 7 down to 0 (R180). -/
def mobsDown : List (Fin 8) := [7, 6, 5, 4, 3, 2, 1, 0]

/-- The words of one MOB (R181, R191). -/
def mobCells (i : Fin 8) : List Cell := [.mobX i, .mobY i, .mobA i, .mobColl i]

/-- SPRITES(line + 8 - VD) (R180, R243 step 3). -/
def sprites (s : State) : State := (mobsDown.flatMap mobCells).foldl runCell s

/-- LINE(line), its six steps in order (R243). -/
def lineStep (n : Fin 112) (s : State) : State :=
  clearBuffers (copyOut n.val (border (sprites (background (border s)))))

/-- SEQ after LINE(n) (R241). -/
def seqAfter (n : Fin 112) : Seq :=
  if h : n.val < 111 then .rendering ⟨n.val + 1, by omega⟩ else .finalizing

/-- The host's turn, while SEQ = IDLE: the oldest move not yet taken, or none (R266; log entry 7). -/
def hostTurn (s : State) : Host.Outcome State Fault Refusal :=
  match s.inbox with
  | [] => .next s
  | .write a v :: rest => .next { s with mem := s.mem.write a v, inbox := rest }
  | .setMode m :: rest => .next { s with mode := m, inbox := rest }
  | .renderFrame :: rest => exec .renderFrame { s with inbox := rest }

/-- One operation of the sequencer (R13, R241). -/
def sequencerStep (s : State) : Host.Outcome State Fault Refusal :=
  match s.seq with
  | .idle => hostTurn s
  | .rendering n => .next { lineStep n s with seq := seqAfter n }
  | .finalizing => .next { finalize s with seq := .idle }

/-- What the host sees of FRAME: it may read it only while SEQ = IDLE (R266). -/
def hostFrame (s : State) : Option (Vector (Row Color) 224) :=
  match s.seq with
  | .idle => some s.frame
  | .rendering _ | .finalizing => none

/-- Place a table word where the next step reads it (log entry 9): no bits, the command in the inbox of an idle
core; up to 8 bits, the border color, with SEQ at line 0; otherwise BACKTAB cell 0, in color-stack mode, with
SEQ at the line of background line 0. -/
def placeWord (s : State) (nbits w : Nat) : State :=
  if nbits = 0 then { s with seq := .idle, inbox := .renderFrame :: s.inbox }
  else if nbits ≤ 8 then
    { s with seq := .rendering 0, mem := s.mem.write Cell.border.addr (BitVec.ofNat 16 w) }
  else
    { s with
      seq := .rendering 8, vd := 8, modeq := true
      mem := s.mem.write (Cell.backtab 0).addr (BitVec.ofNat 16 w) }

end Sys2Proof.Machine
end

