-- ==== Sys2Proof/Machine/Step.lean ====
section
/-! DEFINITION. One step of the machine: one operation of the sequencer (R13, R241). -/

namespace Sys2Proof.Machine

/-- One step (R13, R241). -/
def step (s : State) : Host.Outcome State Fault Refusal := sequencerStep s

/-- The state in which the next step reads and runs a table word (log entry 9). -/
def State.withFetchWord (s : State) (nbits w : Nat) : State := placeWord s nbits w

end Sys2Proof.Machine
end

