-- ==== Sys2Proof/Safety.lean ====
section
/-! DEFINITION. What counts as a safe state between two operations of the sequencer, in the terms the statements use.

No step of the core ever stops (R260), so a safe run is one that keeps `State.Inv`. -/

namespace Sys2Proof.Machine

/-- The invariant that holds between operations of the sequencer. -/
structure State.Inv (s : State) : Prop where
  /-- Shared memory is in canonical form. -/
  memWf : s.mem.wf = true
  /-- VD is 8..15 (R21). -/
  vdRange : 8 ≤ s.vd ∧ s.vd ≤ 15
  /-- HD is 16..30 and even (R21). -/
  hdRange : 16 ≤ s.hd ∧ s.hd ≤ 30 ∧ s.hd % 2 = 0
  /-- CSP holds one of 0x28..0x2B (R22). -/
  cspRange : 0x28 ≤ s.csp ∧ s.csp ≤ 0x2B
  /-- PAL7 is canonical outside a colored-squares card (R134). -/
  pal7Canonical : s.pal7 = paletteColor s.params 7
  /-- The working buffers are never persisted across lines (R25, R26, R233). -/
  buffersClear : s.cbuf = Copies.fill 0 ∧ s.bbuf = Copies.fill 0
  /-- No MOB record is stored (R29). -/
  unitBlank : s.unit = Mob.blank
  /-- No word is awaited. -/
  useNothing : s.use = .nothing

/-- Two states that the core cannot tell apart but by the eight collision registers: every other cell reads the same,
and every other field is equal. -/
structure State.SameButCollisions (s t : State) : Prop where
  cells : ∀ a : Nat, a < 0x18 ∨ 0x20 ≤ a → s.mem.read a = t.mem.read a
  rest : s = { t with mem := s.mem }

end Sys2Proof.Machine
end

