-- ==== Sys2Proof/Certificates/Slice0/Obligations.lean ====
section
/-! DEFINITION. The statements for the provers. They formalise the numbered rules of spec/, file by file.

Where a statement speaks of a field of the model's own (`inbox`, `unit`, `use`; log entries 7 and 8), its docstring
says so. A frame is written as an equation: `t = { s with f := t.f, ... }` says that every field but those listed
is unchanged. -/

open Sys2Proof Sys2Proof.Machine

namespace Sys2Proof.Claims

/-- The core renders background line `bl`: SEQ = RENDERING(VD + bl), bl in 0..95 (R243, R244). -/
def InWindow (s : State) (bl : Nat) : Prop :=
  ∃ line : Fin 112, s.seq = .rendering line ∧ line.val = s.vd + bl ∧ bl < 96

/-- Bits 7:0 of a cell: a graphic row (R103). -/
def rowByte (s : State) (a : Nat) : Byte := (s.mem.read a).setWidth 8

/-- From `s` to `t`, the 16 columns of card column `col` are painted in both copies: pixel `b` (columns
HD + 16*col + 2*b and the next) gets color `px b`, and bit 0x100 where `tag b`; every other column keeps its color and
bits (R153, R163, R230). -/
def CardPainted (s t : State) (col : Nat) (px : Nat → Color) (tag : Nat → Bool) : Prop :=
  ∀ (k : Fin 2) (x : Nat) (hx : x < 352),
    (∀ b m : Nat, b < 8 → m < 2 → x = s.hd + 16 * col + 2 * b + m →
      (t.cbuf.get k)[x] = px b ∧
      (t.bbuf.get k)[x] = if tag b then (s.bbuf.get k)[x] ||| 0x100#10 else (s.bbuf.get k)[x]) ∧
    (x < s.hd + 16 * col ∨ s.hd + 16 * col + 16 ≤ x →
      (t.cbuf.get k)[x] = (s.cbuf.get k)[x] ∧ (t.bbuf.get k)[x] = (s.bbuf.get k)[x])

/-- The operands of the three F_BT_CS rows: BACKTAB cell, FG = w[12] :: w[2:0], GRAM, card number, ADV (R92). -/
def csOperands : Instr → Option (Fin 240 × PalIdx × Bool × Nat × Bool)
  | .btCsCardGrom n fg card adv => some (n, fg.setWidth 4, false, card.toNat, adv)
  | .btCsCardGram n fg card adv => some (n, fg.setWidth 4, true, card.toNat, adv)
  | .btCsCardGramFg3 n fg card adv => some (n, 8#4 ||| fg.setWidth 4, true, card.toNat, adv)
  | _ => none

/-- A BACKTAB word in either mode. -/
def isBacktab : Instr → Bool
  | .btFgbgCard .. | .btCsCardGrom .. | .btCsCardGram .. | .btCsCardGramFg3 .. | .btCsSquares .. => true
  | _ => false

/-- The bits of a word that belong to a field of its format; the others are ignored (R91 to R103, R106). -/
def usedBits : Instr → Word
  | .btFgbgCard .. => 0x3FFF
  | .btCsCardGrom .. => 0x3FFF
  | .btCsCardGram .. => 0x39FF
  | .btCsCardGramFg3 .. => 0x39FF
  | .btCsSquares .. => 0x3FFF
  | .mobX .. => 0x07FF
  | .mobY .. => 0x0FFF
  | .mobA .. => 0x3FFF
  | .mobColl .. => 0x03FF
  | .cstkEntry .. => 0x000F
  | .borderColor .. => 0x000F
  | .hdelay .. => 0x0007
  | .vdelay .. => 0x0007
  | .extend .. => 0x0003
  | .graphicRow .. => 0x00FF
  | .renderFrame => 0

/-- The addresses of the map of R32 at which the core reads a word. BACKTAB has the 240 cells of R110 (log entry 2). -/
def Mapped (a : Nat) : Prop :=
  a < 0x20 ∨ (0x28 ≤ a ∧ a ≤ 0x2C) ∨ (0x30 ≤ a ∧ a ≤ 0x32) ∨ (0x200 ≤ a ∧ a < 0x200 + 240) ∨
    (0x3000 ≤ a ∧ a ≤ 0x39FF)

/-- How many of the first `c` cards of the row that starts at cell `row0` are F_BT_CS words that ask CSP to advance
(R92, R94). -/
def advances (s : State) (row0 : Nat) : Nat → Nat
  | 0 => 0
  | c + 1 =>
    advances s row0 c +
      (if (s.mem.read (row0 + c)).extractLsb' 11 2 ≠ 2 ∧ (s.mem.read (row0 + c)).getLsbD 13 then 1 else 0)

/-- FINALIZE with its loops in given orders: pass 1 over `l1`, pass 2 over `l2` and, for each of its MOBs, `l3`
(R220 to R222). -/
def finalizeInOrder (l1 l2 : List (Fin 8)) (l3 : Fin 8 → List (Fin 8)) (m : Memory) : Memory :=
  l2.foldl (fun m i => (l3 i).foldl (mirrorPair i) m) (l1.foldl clearSelf m)

/-- `k` steps of the machine behind Host/Core.lean. -/
def runSteps (k : Nat) (s : State) : Host.Outcome State Fault Refusal := Host.Core.run Sys2Proof.core k s

end Sys2Proof.Claims

open Sys2Proof.Claims

/-! ## Control registers and the host command -/

/-- R242 (its three control words, one by one): HDELAY, VDELAY and EXTEND set their latches and nothing else. That they do
so in every SEQ, outside LATCH too, is the model's choice (log entry 10). -/
def Obligations.ControlWordsSetLatches : Prop :=
  ∀ (d : BitVec 3) (left top : Bool) (s : State),
    exec (.hdelay d) s = .next { s with hd := 2 * (8 + d.toNat) } ∧
    exec (.vdelay d) s = .next { s with vd := 8 + d.toNat } ∧
    exec (.extend left top) s = .next { s with et := top, el := left }

/-- R242: RENDER_FRAME in IDLE latches VD, HD, ET, EL, MODEQ and CSP from M[0x31], M[0x30], M[0x32] and MODE, and enters
RENDERING(0); nothing else changes. -/
def Obligations.RenderFrameLatches : Prop :=
  ∀ s : State, s.seq = .idle →
    exec .renderFrame s = .next
      { s with
        vd := 8 + (s.mem.read 0x31).toNat % 8
        hd := 2 * (8 + (s.mem.read 0x30).toNat % 8)
        et := (s.mem.read 0x32).getLsbD 1
        el := (s.mem.read 0x32).getLsbD 0
        modeq := decide (s.mode ≠ 0)
        csp := 0x28
        seq := .rendering 0 }

/-- R247: RENDER_FRAME while SEQ is not IDLE is refused. -/
def Obligations.RenderFrameOutsideIdleRefused : Prop :=
  ∀ s : State, s.seq ≠ .idle → exec .renderFrame s = .refused .renderInProgress

/-- R241: the transitions of SEQ, row by row, with their actions; and no others. In the last clause the event of IDLE is the
oldest move of the inbox, and a step in IDLE with another move or none stays there: the model's choice (log entry 7). -/
def Obligations.SequencerTransitions : Prop :=
  ∀ s : State,
    (s.seq = .idle → exec .renderFrame s = .next { latch s with seq := .rendering 0 }) ∧
    (∀ (n : Fin 112) (h : n.val < 111), s.seq = .rendering n →
      step s = .next { lineStep n s with seq := .rendering ⟨n.val + 1, by omega⟩ }) ∧
    (s.seq = .rendering 111 → step s = .next { lineStep 111 s with seq := .finalizing }) ∧
    (s.seq = .finalizing → step s = .next { finalize s with seq := .idle }) ∧
    (∀ t, s.seq = .idle → step s = .next t →
      ((∃ rest, s.inbox = .renderFrame :: rest) → t.seq = .rendering 0) ∧
      ((¬ ∃ rest, s.inbox = .renderFrame :: rest) → t.seq = .idle))

/-- A step runs the decoded instruction (R13, R90, R243). Clause 1: the word of a cell, decoded at its address in the
latched display mode, is executed by `exec`, and that is what running the cell does. Clauses 2 to 4: a step in
RENDERING(n) runs the border word, the 20 BACKTAB words of the card row (in the window, CSP reset first at background
line 0 in color-stack mode), the words of MOBs 7 down to 0, and the border word, then COPY_OUT and CLEAR. Clause 5: a
step in IDLE runs the host's command (the inbox is the model's own, log entry 7). Clauses 6 and 7: an operand word that
a meaning fetches, a graphic row or the color-stack entry at CSP, is executed by `exec` too, for the use it is fetched for
(`use` is the model's own, log entry 8). Clause 8: LATCH runs the three control words. That the words of a
MOB in clause 2 include its collision register, decoded and run as MOB_COLL, is the model's choice: R98 says that the core
does not decode this register, and R181 reads X, Y and A only (log entry 11). -/
def Obligations.StepRunsDecodedInstruction : Prop :=
  (∀ (s : State) (c : Cell) (i : Instr), decode s.modeq c.addr (s.mem.read c.addr) = .ok i →
    exec i s = .next (runCell s c)) ∧
  (∀ (s : State) (n : Fin 112), s.seq = .rendering n →
    step s = .next
      { clearBuffers (copyOut n.val (runCell
          (([7, 6, 5, 4, 3, 2, 1, 0].flatMap fun i => [Cell.mobX i, .mobY i, .mobA i, .mobColl i]).foldl runCell
            (background (runCell s .border))) .border)) with
        seq := if h : n.val < 111 then .rendering ⟨n.val + 1, by omega⟩ else .finalizing }) ∧
  (∀ (s : State) (bl : Nat) (r : Fin 12), InWindow s bl → r.val = bl / 8 →
    background s =
      ((List.finRange 20).map fun c => Cell.backtab ⟨20 * r.val + c.val, by omega⟩).foldl runCell
        (if s.modeq = true ∧ bl = 0 then { s with csp := 0x28 } else s)) ∧
  (∀ s : State, (∀ bl, ¬ InWindow s bl) → background s = s) ∧
  (∀ (s : State) (rest : List HostMove), s.seq = .idle → s.inbox = .renderFrame :: rest →
    step s = exec .renderFrame { s with inbox := rest }) ∧
  (∀ (s : State) (o : Fin 0xA00) (i : Instr) (u : RowUse),
    decode s.modeq (0x3000 + o.val) (s.mem.read (0x3000 + o.val)) = .ok i →
    exec i { s with use := u } = .next (fetchRow (0x3000 + o.val) u s)) ∧
  (∀ (s : State) (i : Instr) (u : RowUse), 0x28 ≤ s.csp → s.csp ≤ 0x2B → decode s.modeq s.csp (s.mem.read s.csp) = .ok i →
    exec i { s with use := u } = .next (fetchStack u s)) ∧
  (∀ s : State, latch s = { runCell (runCell (runCell s .vdelay) .hdelay) .extend with
    modeq := decide (s.mode ≠ 0), csp := 0x28 })

/-- R106, R107, R260: no word of shared memory stops, whatever the state, and no step of the machine stops. -/
def Obligations.NothingStops : Prop :=
  (∀ (i : Instr) (s : State), i ≠ .renderFrame → ∃ t, exec i s = .next t) ∧
  (∀ s : State, ∃ t, step s = .next t)

/-- The model's choice (log entry 10), with R244: a word whose operation is not under way has no effect. BACKTAB words
outside the background window, the border color and a collision register outside RENDERING. -/
def Obligations.WordsWithoutTheirOperation : Prop :=
  (∀ (i : Instr) (s : State), isBacktab i = true → (∀ bl, ¬ InWindow s bl) → exec i s = .next s) ∧
  (∀ (c : BitVec 4) (s : State), (∀ n, s.seq ≠ .rendering n) → exec (.borderColor c) s = .next s) ∧
  (∀ (i : Fin 8) (mob : BitVec 8) (bg border : Bool) (s : State), (∀ n, s.seq ≠ .rendering n) →
    exec (.mobColl i mob bg border) s = .next s)

/-! ## Palette -/

/-- R130, R131: colorOf reads PAL7 in slot 7 and the constant table elsewhere; the table's entry 0 is 0x0C0005 and its
entry n, for n in 1..15, the n-th of the open parameter PALETTE[1..15]. -/
def Obligations.ColorLookup : Prop :=
  ∀ (s : State) (n : PalIdx),
    (n = 7 → s.colorOf n = s.pal7) ∧
    (n ≠ 7 → s.colorOf n = paletteColor s.params n) ∧
    s.colorOf 0 = 0x0C0005#24 ∧
    paletteColor s.params 0 = 0x0C0005#24 ∧
    (∀ k : Fin 15, n.toNat = k.val + 1 → paletteColor s.params n = s.params.palette1to15[k])

/-- R135: bit j of REV[b] is bit 7-j of b, and REV is its own inverse. -/
def Obligations.RevReversesBits : Prop :=
  ∀ b : Byte, (∀ j : Nat, j < 8 → (rev b).getLsbD j = b.getLsbD (7 - j)) ∧ rev (rev b) = b

/-! ## Border -/

/-- R142, R144: BORDER_COLOR on line n paints exactly the full line in the bands and the two margins elsewhere, in both
copies, and ORs 0x200 there; nothing else changes. -/
def Obligations.BorderColorPaintsBorder : Prop :=
  ∀ (c : BitVec 4) (s : State) (n : Fin 112), s.seq = .rendering n →
    ∃ t, exec (.borderColor c) s = .next t ∧
      t = { s with cbuf := t.cbuf, bbuf := t.bbuf } ∧
      ∀ (k : Fin 2) (x : Nat) (hx : x < 352),
        (n.val < s.vd + 8 * s.et.toNat ∨ s.vd + 96 ≤ n.val ∨ x < s.hd + 16 * s.el.toNat ∨ s.hd + 320 ≤ x →
          (t.cbuf.get k)[x] = s.colorOf c ∧ (t.bbuf.get k)[x] = (s.bbuf.get k)[x] ||| 0x200#10) ∧
        (¬ (n.val < s.vd + 8 * s.et.toNat ∨ s.vd + 96 ≤ n.val ∨ x < s.hd + 16 * s.el.toNat ∨ s.hd + 320 ≤ x) →
          (t.cbuf.get k)[x] = (s.cbuf.get k)[x] ∧ (t.bbuf.get k)[x] = (s.bbuf.get k)[x])

/-- R141: BORDER of a line outside 0..111 writes nothing. -/
def Obligations.BorderOutsideDisplay : Prop :=
  ∀ (line : Int) (c : PalIdx) (s : State), line < 0 ∨ 111 < line → paintBorder line c s = s

/-! ## Background -/

/-- R153: PAINT_CARD_ROW paints the eight pixels of a row in both copies, in the foreground color with bit 0x100 where the
graphic bit is 1, in the background color with no bit set or cleared where it is 0; nothing else changes. -/
def Obligations.CardRowPaints : Prop :=
  ∀ (col : Fin 20) (g : Byte) (fg bg : PalIdx) (s : State),
    let t := paintCardRow col.val g fg bg s
    t = { s with cbuf := t.cbuf, bbuf := t.bbuf } ∧
    CardPainted s t col.val (fun b => if g.getLsbD (7 - b) then s.colorOf fg else s.colorOf bg)
      (fun b => g.getLsbD (7 - b))

/-- R150 to R153 (through BT_FGBG_CARD): the card row is painted in both copies from the graphic row of the
sub-row, and nothing else changes (but the model's own `use`, log entry 8, which is empty after it); CSP and the cache are
left alone. -/
def Obligations.FgbgCardPaints : Prop :=
  ∀ (n : Fin 240) (fg : BitVec 3) (card : BitVec 6) (bg : BitVec 4) (gram : Bool) (s : State) (bl : Nat),
    InWindow s bl →
    ∃ t, exec (.btFgbgCard n fg card bg gram) s = .next t ∧
      t = { s with cbuf := t.cbuf, bbuf := t.bbuf, use := .nothing } ∧
      let g := rowByte s ((if gram then 0x3800 else 0x3000) + 8 * card.toNat + bl % 8)
      CardPainted s t (n.val % 20)
        (fun b => if g.getLsbD (7 - b) then s.colorOf (fg.setWidth 4) else s.colorOf bg) (fun b => g.getLsbD (7 - b))

/-- R161: on sub-row 0 a color-stack card advances CSP if ADV, then caches M[CSP][3:0] and its foreground; on the other
sub-rows CSP and the cache are left as they are. Frame: only CSP, the cache and the working buffers change (and the
model's own `use`, log entry 8, is empty after it). -/
def Obligations.CsCardCachesOnFirstSubRow : Prop :=
  ∀ (i : Instr) (n : Fin 240) (fg : PalIdx) (gram : Bool) (card : Nat) (adv : Bool) (s : State) (bl : Nat),
    csOperands i = some (n, fg, gram, card, adv) → InWindow s bl →
    ∃ t, exec i s = .next t ∧
      t = { s with csp := t.csp, cacheFg := t.cacheFg, cacheBg := t.cacheBg, cbuf := t.cbuf, bbuf := t.bbuf,
                   use := .nothing } ∧
      (bl % 8 = 0 →
        t.csp = (if adv then 0x28 + (s.csp - 0x28 + 1) % 4 else s.csp) ∧
        (∀ c : Fin 20, t.cacheBg[c] = if c.val = n.val % 20 then (s.mem.read t.csp).setWidth 4 else s.cacheBg[c]) ∧
        (∀ c : Fin 20, t.cacheFg[c] = if c.val = n.val % 20 then fg else s.cacheFg[c])) ∧
      (bl % 8 ≠ 0 → t.csp = s.csp ∧ t.cacheBg = s.cacheBg ∧ t.cacheFg = s.cacheFg)

/-- R162: on every sub-row a color-stack card paints its graphic row with the cached colors of its column. -/
def Obligations.CsCardPaints : Prop :=
  ∀ (i : Instr) (n : Fin 240) (fg : PalIdx) (gram : Bool) (card : Nat) (adv : Bool) (s : State) (bl : Nat)
    (col : Fin 20),
    csOperands i = some (n, fg, gram, card, adv) → InWindow s bl → col.val = n.val % 20 →
    ∃ t, exec i s = .next t ∧
      let g := rowByte s ((if gram then 0x3800 else 0x3000) + 8 * card + bl % 8)
      CardPainted s t col.val
        (fun b => if g.getLsbD (7 - b) then s.colorOf t.cacheFg[col] else s.colorOf t.cacheBg[col])
        (fun b => g.getLsbD (7 - b))

/-- R163: a colored-squares card paints its four squares; selector 7 shows the color of M[CSP][3:0] and sets no bit,
any other selector shows its palette color and sets 0x100; PAL7 ends canonical; CSP and the cache are not written (and
the model's own `use`, log entry 8, is empty after it). -/
def Obligations.ColoredSquaresPaint : Prop :=
  ∀ (n : Fin 240) (c0 c1 c2 c3 : BitVec 3) (s : State) (bl : Nat), InWindow s bl →
    ∃ t, exec (.btCsSquares n c0 c1 c2 c3) s = .next t ∧
      t = { s with cbuf := t.cbuf, bbuf := t.bbuf, pal7 := paletteColor s.params 7, use := .nothing } ∧
      let sel := fun b : Nat => if bl % 8 < 4 then (if b < 4 then c0 else c1) else (if b < 4 then c2 else c3)
      CardPainted s t (n.val % 20)
        (fun b => if sel b = 7 then paletteColor s.params ((s.mem.read s.csp).setWidth 4)
          else paletteColor s.params ((sel b).setWidth 4))
        (fun b => decide (sel b ≠ 7))

/-- R164: CSP_ADVANCE, its wrap, and the return after four advances. -/
def Obligations.CspAdvanceCycles : Prop :=
  (∀ s : State, cspAdvance s = { s with csp := 0x28 + (s.csp - 0x28 + 1) % 4 }) ∧
  (∀ s : State, s.csp = 0x2B → (cspAdvance s).csp = 0x28) ∧
  (∀ s : State, 0x28 ≤ s.csp → s.csp ≤ 0x2B → cspAdvance (cspAdvance (cspAdvance (cspAdvance s))) = s)

/-- R132, R161: what a color-stack entry does is settled by the operation that reads it (the field `use` is the model's
own, log entry 8): a card's background, the proxy of slot 7, or nothing. -/
def Obligations.StackEntryGoesWhereItIsRead : Prop :=
  ∀ (slot : Fin 4) (color : BitVec 4) (s : State),
    (∀ col : Fin 20, s.use = .cardBackground col →
      ∃ t, exec (.cstkEntry slot color) s = .next t ∧ t = { s with cacheBg := t.cacheBg, use := .nothing } ∧
        ∀ c : Fin 20, t.cacheBg[c] = if c = col then color else s.cacheBg[c]) ∧
    (s.use = .squareOverride →
      exec (.cstkEntry slot color) s = .next { s with pal7 := paletteColor s.params color, use := .nothing }) ∧
    ((∀ col, s.use ≠ .cardBackground col) → s.use ≠ .squareOverride →
      exec (.cstkEntry slot color) s = .next s)

/-- R152, R153, R187 to R189: what a graphic row does is settled by the operation that reads it (the field `use` is the
model's own, log entry 8): it is painted as a card row, becomes the MOB's byte of the copies it was read for, mirrored
with XFLIP, or does nothing. -/
def Obligations.GraphicRowGoesWhereItIsRead : Prop :=
  ∀ (a : Nat) (row : BitVec 8) (s : State),
    (∀ (col : Fin 20) (fg bg : PalIdx), s.use = .cardRow col fg bg →
      ∃ t, exec (.graphicRow a row) s = .next t ∧
        t = { s with cbuf := t.cbuf, bbuf := t.bbuf, use := .nothing } ∧
        CardPainted s t col.val (fun b => if row.getLsbD (7 - b) then s.colorOf fg else s.colorOf bg)
          (fun b => row.getLsbD (7 - b))) ∧
    (∀ to0 to1 : Bool, s.use = .mobRow to0 to1 →
      exec (.graphicRow a row) s = .next
        { s with
          unit := { s.unit with
            b0 := if to0 then (if s.unit.xflip then rev row else row) else s.unit.b0
            b1 := if to1 then (if s.unit.xflip then rev row else row) else s.unit.b1 }
          use := .nothing }) ∧
    ((∀ col fg bg, s.use ≠ .cardRow col fg bg) → (∀ to0 to1, s.use ≠ .mobRow to0 to1) →
      exec (.graphicRow a row) s = .next s)

/-! ## MOBs -/

/-- R181, word by word: MOB_X, MOB_Y and MOB_A set their fields of the record and nothing else (the field `unit` that
holds the record is the model's own, log entry 8). That they do so in every SEQ is the model's choice (log entry 10). -/
def Obligations.MobWordsSetRecordFields : Prop :=
  ∀ (i : Fin 8) (s : State),
    (∀ (x : BitVec 8) (intr visb xsize : Bool),
      exec (.mobX i x intr visb xsize) s =
        .next { s with unit := { s.unit with x := x, intr := intr, visb := visb, xsize := xsize } }) ∧
    (∀ (y : BitVec 7) (yres : Bool) (ysize : BitVec 2) (xflip yflip : Bool),
      exec (.mobY i y yres ysize xflip yflip) s =
        .next { s with
          unit := { s.unit with y := y, yres := yres, ysize := ysize, xflip := xflip, yflip := yflip } }) ∧
    (∀ (fg : BitVec 4) (card : BitVec 8) (gram prio : Bool),
      exec (.mobA i fg card gram prio) s =
        .next { s with unit := { s.unit with fg := fg, card := card, gram := gram, prio := prio } })

/-- R181: running MOB i's three words builds the record from M[0x00+i], M[0x08+i] and M[0x10+i], whatever record stood
before, and running its collision register in RENDERING drops it: the record is never stored (the field `unit` is the
model's own, log entry 8; that the collision register is decoded and run is the model's choice, log entry 11). -/
def Obligations.MobDecodeBuildsRecord : Prop :=
  (∀ (i : Fin 8) (s : State),
    let wx := s.mem.read (0x00 + i.val)
    let wy := s.mem.read (0x08 + i.val)
    let wa := s.mem.read (0x10 + i.val)
    runCell (runCell (runCell s (.mobX i)) (.mobY i)) (.mobA i) =
      { s with
        unit :=
          { x := wx.extractLsb' 0 8, intr := wx.getLsbD 8, visb := wx.getLsbD 9, xsize := wx.getLsbD 10,
            y := wy.extractLsb' 0 7, yres := wy.getLsbD 7, ysize := wy.extractLsb' 8 2,
            xflip := wy.getLsbD 10, yflip := wy.getLsbD 11,
            fg := wa.extractLsb' 12 1 ++ wa.extractLsb' 0 3, card := wa.extractLsb' 3 8,
            gram := wa.getLsbD 11, prio := wa.getLsbD 13, b0 := s.unit.b0, b1 := s.unit.b1 } }) ∧
  (∀ (i : Fin 8) (s : State) (n : Fin 112), s.seq = .rendering n → (runCell s (.mobColl i)).unit = Mob.blank)

/-- R182: MOB_ENABLED, and a MOB that fails the test contributes nothing (its record stands in `unit`, the model's own,
log entry 8). -/
def Obligations.MobEnableTest : Prop :=
  (∀ u : Mob, u.enabled = true ↔ u.x.toNat ≠ 0 ∧ u.x.toNat ≤ 167 ∧ (u.visb = true ∨ u.intr = true)) ∧
  (∀ (i : Fin 8) (reg : Word) (sl : Int) (s : State), s.unit.enabled = false → mobPass i reg sl s = s)

/-- R183: H = 4 << ysize << yres and R = 8 << yres. -/
def Obligations.MobSizes : Prop :=
  ∀ u : Mob, u.height = 4 * 2 ^ u.ysize.toNat * 2 ^ u.yres.toNat ∧ u.rows = 8 * 2 ^ u.yres.toNat

/-- R186: MOB_BASE. -/
def Obligations.MobGraphicBase : Prop :=
  ∀ u : Mob,
    u.base = (if u.gram then 0x3800 else 0x3000) +
      8 * (let c := if u.gram then u.card.toNat % 64 else u.card.toNat
           if u.yres then c - c % 2 else c)

/-- R245: on line n the sprite line is n + 8 - VD; a MOB with Y position y is on lines y + VD - 8 to y + VD - 8 + H - 1;
with VD in 8..15 the sprite line is in -7..111. -/
def Obligations.SpriteLinesOfMob : Prop :=
  ∀ (s : State) (n : Fin 112), s.seq = .rendering n →
    ∃ sl : Int, s.spriteLine = some sl ∧ sl = (n.val : Int) + 8 - (s.vd : Int) ∧
      (∀ u : Mob, u.onLine sl = true ↔
        (u.y.toNat : Int) + s.vd - 8 ≤ n.val ∧ (n.val : Int) ≤ (u.y.toNat : Int) + s.vd - 8 + u.height - 1) ∧
      (8 ≤ s.vd → s.vd ≤ 15 → -7 ≤ sl ∧ sl ≤ 111)

/-- R182, R184, R194: a MOB that is disabled, or not on the line, contributes nothing: its collision register's word
only drops the record (the field `unit` is the model's own, log entry 8; that this word is decoded and run is the model's
choice, log entry 11). -/
def Obligations.MobNotActiveHasNoEffect : Prop :=
  ∀ (i : Fin 8) (mob : BitVec 8) (bg border : Bool) (s : State) (n : Fin 112), s.seq = .rendering n →
    (s.unit.x.toNat = 0 ∨ 167 < s.unit.x.toNat ∨ (s.unit.visb = false ∧ s.unit.intr = false) ∨
      (n.val : Int) + 8 - s.vd < s.unit.y.toNat ∨
      (s.unit.y.toNat : Int) + s.unit.height ≤ (n.val : Int) + 8 - s.vd) →
    exec (.mobColl i mob bg border) s = .next { s with unit := Mob.blank }

/-- R33, R191: what MOB_COLL may change: its own register's bits 9:0, the working buffers, and the model's own record and
`use` (log entry 8). Every other cell reads as before. That this word is decoded and run is the model's choice (log entry
11). -/
def Obligations.MobCollisionFrame : Prop :=
  ∀ (i : Fin 8) (mob : BitVec 8) (bg border : Bool) (s : State),
    ∃ t, exec (.mobColl i mob bg border) s = .next t ∧
      t = { s with mem := t.mem, cbuf := t.cbuf, bbuf := t.bbuf, unit := t.unit, use := t.use } ∧
      (∀ a : Nat, a ≠ 0x18 + i.val → t.mem.read a = s.mem.read a) ∧
      (∀ j : Nat, 10 ≤ j → (t.mem.read (0x18 + i.val)).getLsbD j = (s.mem.read (0x18 + i.val)).getLsbD j)

/-- R194: a non-interactive MOB changes no collision register and BBUF only by the column-167 clear; an invisible,
interactive MOB changes no CBUF cell; a disabled MOB changes neither buffer and no register. The MOB is the one whose
record stands in `unit` (the model's own, log entry 8). -/
def Obligations.MobFlagsLimitEffects : Prop :=
  ∀ (i : Fin 8) (mob : BitVec 8) (bg border : Bool) (s : State),
    ∃ t, exec (.mobColl i mob bg border) s = .next t ∧
      (s.unit.intr = false → t.mem = s.mem ∧ (t.bbuf = s.bbuf ∨ t.bbuf = (clearCol167 s).bbuf)) ∧
      (s.unit.visb = false → s.unit.intr = true → t.cbuf = s.cbuf) ∧
      (s.unit.enabled = false → t.mem = s.mem ∧ t.cbuf = s.cbuf ∧ t.bbuf = s.bbuf)

/-- R180, R191 to R193: what MOB_COLL does for an active MOB is the composite of R191 and R192, copy 0 and then copy 1,
pixels ascending, over the rows of R187 to R189 and the cleared cells of R185; the register starts from the word's
fields over the cell's bits 15:10 and is stored once, at the end of the MOB, if a cell was accumulated: that is the model's
choice, for R98 says that the core does not decode this register (log entry 11). `unit` and `use` are the model's own (log
entry 8). -/
def Obligations.MobActiveIsComposited : Prop :=
  ∀ (i : Fin 8) (mob : BitVec 8) (bg border : Bool) (s : State) (n : Fin 112), s.seq = .rendering n →
    s.unit.x.toNat ≠ 0 → s.unit.x.toNat ≤ 167 → (s.unit.visb = true ∨ s.unit.intr = true) →
    s.unit.y.toNat ≤ (n.val : Int) + 8 - s.vd → (n.val : Int) + 8 - s.vd < s.unit.y.toNat + s.unit.height →
    let u : State := fetchMobRows (n.val + 8 - s.vd - s.unit.y.toNat) (clearCol167 s)
    let pixels : List Nat := [0, 1, 2, 3, 4, 5, 6, 7]
    let r : Canvas :=
      { reg := (s.mem.read (0x18 + i.val) &&& 0xFC00#16) ||| mob.setWidth 16 ||| (if bg then 0x100#16 else 0) |||
          (if border then 0x200#16 else 0)
        wrote := false, color := u.cbuf.full, coll := u.bbuf.full }
    let c0 : Canvas :=
      pixels.foldl (mobPixel i u.unit (s.colorOf s.unit.fg) s.hd s.params.dwTagOffsets u.unit.b0) r
    let c1 : Canvas :=
      pixels.foldl (mobPixel i u.unit (s.colorOf s.unit.fg) s.hd s.params.dwTagOffsets u.unit.b1)
        { c0 with color := u.cbuf.second, coll := u.bbuf.second }
    exec (.mobColl i mob bg border) s = .next
      { s with
        mem := if c1.wrote then s.mem.write (0x18 + i.val) c1.reg else s.mem
        cbuf := { full := c0.color, second := c1.color }
        bbuf := { full := c0.coll, second := c1.coll }
        unit := Mob.blank
        use := .nothing }

/-- R187, R188, R189: the two bytes of MOB_ROWS at offset d. They stand in the record (`unit` and `use` are the model's
own, log entry 8). -/
def Obligations.MobRowsSelectBytes : Prop :=
  ∀ (d : Nat) (s : State),
    let u := s.unit
    let flip := fun b : Byte => if u.xflip then rev b else b
    let t := fetchMobRows d s
    t = { s with unit := { u with b0 := t.unit.b0, b1 := t.unit.b1 }, use := .nothing } ∧
    (u.ysize = 0 →
      let r := if u.yflip then u.rows - 2 - 2 * d else 2 * d
      t.unit.b0 = flip (rowByte s (u.base + (if u.yflip then r + 1 else r))) ∧
      t.unit.b1 = flip (rowByte s (u.base + (if u.yflip then r else r + 1)))) ∧
    (u.ysize ≠ 0 →
      let r := if u.yflip then u.rows - 1 - d / 2 ^ (u.ysize.toNat - 1) else d / 2 ^ (u.ysize.toNat - 1)
      t.unit.b0 = flip (rowByte s (u.base + r)) ∧ t.unit.b1 = flip (rowByte s (u.base + r)))

/-- R190, R231, R234: the draw cells of pixel p are SPRX + m for m below w, the tag cells of a double-width pixel are
SPRX + o for the offsets of the parameter, both inside the buffer only; a normal pixel tags what it draws. -/
def Obligations.MobPixelCells : Prop :=
  ∀ (u : Mob) (offsets : Vector Int 4) (hd p x : Nat),
    let w : Nat := if u.xsize then 4 else 2
    let left : Int := (hd : Int) + 2 * ((u.x.toNat : Int) - 8) + (w : Int) * (p : Int)
    (x ∈ u.drawCols hd p ↔ x < 352 ∧ ∃ m : Nat, m < w ∧ (x : Int) = left + (m : Int)) ∧
    (u.xsize = false → u.tagCols offsets hd p = u.drawCols hd p) ∧
    (u.xsize = true → (x ∈ u.tagCols offsets hd p ↔ x < 352 ∧ ∃ o ∈ offsets.toList, (x : Int) = left + o))

/-- R192, with R191 and R193 on one pixel: a 0 bit does nothing; a 1 bit of an interactive MOB accumulates the bits of
its draw cells (`wrote` records that R191 issued a MemWrite for one, log entry 11) and then tags its tag cells; then each draw cell is painted unless the MOB has priority and the cell
carries bit 8, or is invisible. -/
def Obligations.MobPixelCollidesAndPaints : Prop :=
  ∀ (i : Fin 8) (u : Mob) (color : Color) (hd : Nat) (offsets : Vector Int 4) (b : Byte) (cv : Canvas) (p : Nat),
    let cv' := mobPixel i u color hd offsets b cv p
    (b.getLsbD (7 - p) = false → cv' = cv) ∧
    (b.getLsbD (7 - p) = true →
      (∀ j : Nat, j < 16 → cv'.reg.getLsbD j =
        (cv.reg.getLsbD j || (u.intr && (u.drawCols hd p).any (fun c => (rowAt 0#10 cv.coll c).getLsbD j)))) ∧
      (cv'.wrote = true ↔ cv.wrote = true ∨ (u.intr = true ∧ u.drawCols hd p ≠ [])) ∧
      (∀ (c : Nat) (hc : c < 352),
        cv'.coll[c] =
          (if u.intr = true ∧ c ∈ u.tagCols offsets hd p then cv.coll[c] ||| (1#10 <<< i.val) else cv.coll[c]) ∧
        cv'.color[c] =
          (if c ∈ u.drawCols hd p ∧ ¬ (u.prio = true ∧ cv.coll[c].getLsbD 8 = true) ∧ u.visb = true then color
           else cv.color[c])))

/-- R185: the column-167 clear zeroes exactly the cells of COL167_CELLS in BBUF and touches nothing else; it comes just
before an active MOB's rows and composite; and the reset state holds the default set, which is the model's choice for the
open parameter's reset value (log entry 4). -/
def Obligations.ColumnClearZeroesItsCells : Prop :=
  (∀ s : State,
    clearCol167 s = { s with bbuf := (clearCol167 s).bbuf } ∧
    ∀ (k : Fin 2) (x : Nat) (hx : x < 352),
      ((∃ o : Int, (k, o) ∈ s.params.col167Cells ∧ (s.hd : Int) + o = x) → ((clearCol167 s).bbuf.get k)[x] = 0) ∧
      ((¬ ∃ o : Int, (k, o) ∈ s.params.col167Cells ∧ (s.hd : Int) + o = x) →
        ((clearCol167 s).bbuf.get k)[x] = (s.bbuf.get k)[x])) ∧
  (∀ (i : Fin 8) (reg : Word) (sl : Int) (s : State), s.unit.enabled = true → s.unit.onLine sl = true →
    mobPass i reg sl s = mobComposite i reg (fetchMobRows (sl - s.unit.y.toNat).toNat (clearCol167 s))) ∧
  State.reset.params.col167Cells = [(0, 318), (0, 319), (1, 318), (1, 319)]

/-! ## Collision symmetrizer -/

/-- R222: the closed form of FINALIZE, whatever order its loops take, and its frame: no other cell changes. -/
def Obligations.FinalizeClosedForm : Prop :=
  (∀ m : Memory, finalizeMemory m = finalizeInOrder mobsUp mobsUp (fun _ => mobsUp) m) ∧
  ∀ (l1 l2 : List (Fin 8)) (l3 : Fin 8 → List (Fin 8)) (m : Memory) (i : Fin 8),
    l1.Perm mobsUp → l2.Perm mobsUp → (∀ k, (l3 k).Perm mobsUp) →
    let m' := finalizeInOrder l1 l2 l3 m
    (∀ j : Fin 8, i ≠ j →
      (m'.read (0x18 + i.val)).getLsbD j.val =
        ((m.read (0x18 + i.val)).getLsbD j.val || (m.read (0x18 + j.val)).getLsbD i.val)) ∧
    (m'.read (0x18 + i.val)).getLsbD i.val = false ∧
    (∀ b : Nat, 8 ≤ b → (m'.read (0x18 + i.val)).getLsbD b = (m.read (0x18 + i.val)).getLsbD b) ∧
    (∀ a : Nat, a < 0x18 ∨ 0x20 ≤ a → m'.read a = m.read a)

/-- R222, R223: the FINALIZING step puts the closed form into the registers: bit j of register i is r_i[j] OR r_j[i], self
bits are 0, bits 15:8 are kept, every other cell reads as before. So the registers are symmetric and no other bit has been
cleared. -/
def Obligations.CollisionsSymmetricAfterFinalizing : Prop :=
  ∀ s : State, s.seq = .finalizing →
    ∃ t, step s = .next t ∧ t = { s with mem := t.mem, seq := .idle } ∧
      ∀ i j : Fin 8,
        (i ≠ j → (t.mem.read (0x18 + i.val)).getLsbD j.val =
          ((s.mem.read (0x18 + i.val)).getLsbD j.val || (s.mem.read (0x18 + j.val)).getLsbD i.val)) ∧
        (i ≠ j → (t.mem.read (0x18 + i.val)).getLsbD j.val = (t.mem.read (0x18 + j.val)).getLsbD i.val) ∧
        (t.mem.read (0x18 + i.val)).getLsbD i.val = false ∧
        (∀ b : Nat, 8 ≤ b → (t.mem.read (0x18 + i.val)).getLsbD b = (s.mem.read (0x18 + i.val)).getLsbD b) ∧
        (∀ a : Nat, a < 0x18 ∨ 0x20 ≤ a → t.mem.read a = s.mem.read a) ∧
        (∀ b : Nat, b ≠ i.val → (s.mem.read (0x18 + i.val)).getLsbD b = true →
          (t.mem.read (0x18 + i.val)).getLsbD b = true)

/-! ## Pixel doubler -/

/-- R232: COPY_OUT writes FRAME rows 2*line and 2*line+1 from the two copies, and nothing else. -/
def Obligations.CopyOutWritesTwoRows : Prop :=
  ∀ (n : Fin 112) (s : State),
    copyOut n.val s = { s with frame := (copyOut n.val s).frame } ∧
    (copyOut n.val s).frame[2 * n.val] = s.cbuf.full ∧
    (copyOut n.val s).frame[2 * n.val + 1] = s.cbuf.second ∧
    ∀ (y : Nat) (hy : y < 224), y ≠ 2 * n.val → y ≠ 2 * n.val + 1 → (copyOut n.val s).frame[y] = s.frame[y]

/-- R233: CLEAR sets every cell of both buffers to 0 and nothing else; so every LINE step ends with clear buffers. -/
def Obligations.LinesEndWithClearBuffers : Prop :=
  (∀ s : State,
    clearBuffers s = { s with cbuf := (clearBuffers s).cbuf, bbuf := (clearBuffers s).bbuf } ∧
    ∀ (k : Fin 2) (x : Nat) (hx : x < 352),
      ((clearBuffers s).cbuf.get k)[x] = 0 ∧ ((clearBuffers s).bbuf.get k)[x] = 0) ∧
  (∀ (s : State) (n : Fin 112), s.seq = .rendering n →
    ∃ t, step s = .next t ∧ t.cbuf = (clearBuffers s).cbuf ∧ t.bbuf = (clearBuffers s).bbuf)

/-- R232, X11: a LINE step writes FRAME rows 2*line and 2*line+1 and no other row. -/
def Obligations.LineLeavesOtherFrameRows : Prop :=
  ∀ (s : State) (n : Fin 112), s.seq = .rendering n →
    ∃ t, step s = .next t ∧
      ∀ (y : Nat) (hy : y < 224), y ≠ 2 * n.val → y ≠ 2 * n.val + 1 → t.frame[y] = s.frame[y]

/-- R235: from a state of the invariant, every pixel a LINE puts into FRAME is a color of the palette: border and
background together cover every cell, so the clear value never shows as such. -/
def Obligations.EveryFramePixelIsPainted : Prop :=
  ∀ (s : State) (n : Fin 112), s.Inv → s.seq = .rendering n →
    ∃ t, step s = .next t ∧
      ∀ (y x : Nat) (hy : y < 224) (hx : x < 352), y = 2 * n.val ∨ y = 2 * n.val + 1 →
        ∃ c : PalIdx, (t.frame[y])[x] = paletteColor s.params c

/-! ## Whole-machine rules -/

/-- R33, R287: while a frame renders, the only cells the core writes are 0x18..0x1F; it keeps their bits 15:10; a LINE
only sets bits there, and FINALIZE clears self bits only. -/
def Obligations.CoreWritesOnlyCollisionRegisters : Prop :=
  ∀ s : State, s.seq ≠ .idle →
    ∃ t, step s = .next t ∧
      (∀ a : Nat, a < 0x18 ∨ 0x20 ≤ a → t.mem.read a = s.mem.read a) ∧
      (∀ (i : Fin 8) (j : Nat), 10 ≤ j →
        (t.mem.read (0x18 + i.val)).getLsbD j = (s.mem.read (0x18 + i.val)).getLsbD j) ∧
      (∀ (i : Fin 8) (j : Nat), (s.mem.read (0x18 + i.val)).getLsbD j = true →
        ((t.mem.read (0x18 + i.val)).getLsbD j = true ∨ (s.seq = .finalizing ∧ j = i.val)))

/-- R21, R68: a LINE step leaves the latches, MODE, the parameters and the host's moves as they are: the frame is
rendered from one snapshot. -/
def Obligations.LineKeepsSnapshot : Prop :=
  ∀ (s : State) (n : Fin 112), s.seq = .rendering n →
    ∃ t, step s = .next t ∧ t.vd = s.vd ∧ t.hd = s.hd ∧ t.et = s.et ∧ t.el = s.el ∧ t.modeq = s.modeq ∧
      t.mode = s.mode ∧ t.params = s.params ∧ t.inbox = s.inbox

/-- R165, R284: CSP and the cache change only in color-stack mode, inside the window, on sub-row 0. -/
def Obligations.StackPointerStillOffFirstSubRows : Prop :=
  ∀ (s : State) (n : Fin 112), s.seq = .rendering n →
    (s.modeq = false ∨ n.val < s.vd ∨ s.vd + 96 ≤ n.val ∨ (n.val - s.vd) % 8 ≠ 0) →
    ∃ t, step s = .next t ∧ t.csp = s.csp ∧ t.cacheFg = s.cacheFg ∧ t.cacheBg = s.cacheBg

/-- R160, R161, R164, R165: on sub-row 0 of card row r in color-stack mode, CSP moves by the number of F_BT_CS words of
that row with ADV set, modulo 4, from 0x28 at background line 0 and from where it stood elsewhere. -/
def Obligations.StackPointerCountsAdvances : Prop :=
  ∀ (s : State) (bl r : Nat), InWindow s bl → s.modeq = true → bl = 8 * r →
    0x28 ≤ s.csp → s.csp ≤ 0x2B →
    ∃ t, step s = .next t ∧
      t.csp = 0x28 + ((if bl = 0 then 0 else s.csp - 0x28) + advances s (0x200 + 20 * r) 20) % 4

/-- R240, R248: a RENDER_FRAME taken in IDLE makes 1 LATCH, 112 LINE steps and 1 FINALIZE and returns to IDLE (the inbox
is the model's own, log entry 7). -/
def Obligations.FrameTakesOneHundredFourteenSteps : Prop :=
  ∀ (s : State) (rest : List HostMove), s.seq = .idle → s.inbox = .renderFrame :: rest →
    (∀ n : Fin 112, ∃ u, runSteps (n.val + 1) s = .next u ∧ u.seq = .rendering n) ∧
    (∃ u, runSteps 113 s = .next u ∧ u.seq = .finalizing) ∧
    (∃ t, runSteps 114 s = .next t ∧ t.seq = .idle ∧ t.inbox = rest)

/-- R240: FRAME does not depend on the collision registers. Two states that differ only in them step to states that
differ only in them. -/
def Obligations.FrameIndependentOfCollisionRegisters : Prop :=
  ∀ s t : State, s.SameButCollisions t → 0x28 ≤ s.csp → s.csp ≤ 0x2B → s.seq ≠ .idle →
    ∃ s' t', step s = .next s' ∧ step t = .next t' ∧ s'.SameButCollisions t' ∧ s'.frame = t'.frame

/-- R20, R27, R68, R166, R240: a frame is a function of the snapshot. Two idle states of the invariant that agree on shared
memory outside the collision registers, on MODE and on the open parameters render the same FRAME, whatever their
latches, CSP, cache, old FRAME and collision registers hold (the inbox is the model's own, log entry 7). -/
def Obligations.FrameIsDeterminedBySnapshot : Prop :=
  ∀ (s t : State) (rs rt : List HostMove), s.Inv → t.Inv → s.seq = .idle → t.seq = .idle →
    s.inbox = .renderFrame :: rs → t.inbox = .renderFrame :: rt → s.mode = t.mode → s.params = t.params →
    (∀ a : Nat, a < 0x18 ∨ 0x20 ≤ a → s.mem.read a = t.mem.read a) →
    ∃ s' t', runSteps 114 s = .next s' ∧ runSteps 114 t = .next t' ∧ s'.frame = t'.frame

/-- R266 (the inbox is the model's own, log entry 7): in IDLE the host writes a cell or sets MODE, and with no move the
core waits; none of these touches FRAME, which the host reads in IDLE only. -/
def Obligations.HostMovesInIdle : Prop :=
  (∀ (s : State) (rest : List HostMove) (a : Nat) (v : Word), s.seq = .idle → s.inbox = .write a v :: rest →
    ∃ t, step s = .next t ∧ t = { s with mem := t.mem, inbox := rest } ∧
      t.mem.read a = v ∧ (∀ b : Nat, b ≠ a → t.mem.read b = s.mem.read b)) ∧
  (∀ (s : State) (rest : List HostMove) (m : Int), s.seq = .idle → s.inbox = .setMode m :: rest →
    step s = .next { s with mode := m, inbox := rest }) ∧
  (∀ s : State, s.seq = .idle → s.inbox = [] → step s = .next s) ∧
  (∀ s : State, (s.seq = .idle → hostFrame s = some s.frame) ∧ (s.seq ≠ .idle → hostFrame s = none))

/-- R21, R22, R25, R26, R29, R134: the invariant between operations of the sequencer is kept by every step. -/
def Obligations.StepKeepsInv : Prop :=
  ∀ s t : State, s.Inv → step s = .next t → t.Inv

/-- R35: the reset state satisfies the invariant. -/
def Obligations.ResetHasInv : Prop := State.reset.Inv

/-- R35: the reset values the spec gives. CACHE, FRAME and shared memory are left to free values (log entries 3, 5). -/
def Obligations.ResetValues : Prop :=
  State.reset.seq = .idle ∧ State.reset.csp = 0x28 ∧ State.reset.vd = 8 ∧ State.reset.hd = 16 ∧
  State.reset.et = false ∧ State.reset.el = false ∧ State.reset.modeq = false ∧
  State.reset.pal7 = paletteColor State.reset.params 7 ∧
  ∀ (k : Fin 2) (x : Nat) (hx : x < 352), (State.reset.cbuf.get k)[x] = 0 ∧ (State.reset.bbuf.get k)[x] = 0

/-! ## Encoding -/

/-- Decode and encode agree: a well-formed word instruction, encoded, decodes to itself in the display mode it is read
in (R90 to R105). BACKTAB's 240 cells stand at R110's addresses, 0x200 to 0x2EF: the model's choice of its end (log entry
2). -/
def Obligations.DecodeOfEncodeIsIdentity : Prop :=
  ∀ (i : Instr) (modeq : Bool), i.wf = true → i ≠ .renderFrame → i.readIn modeq = true →
    ∃ a w, encode i = some (a, w) ∧ decode modeq a w = .ok i

/-- R106: decoding loses only the ignored bits: what is decoded encodes to the same address and to the word's used
bits. BACKTAB ends at 0x2EF, as R110's formula does: the model's choice (log entry 2). -/
def Obligations.EncodeOfDecodeKeepsUsedBits : Prop :=
  ∀ (modeq : Bool) (a : Nat) (w : Word) (i : Instr), decode modeq a w = .ok i →
    i.wf = true ∧ i.readIn modeq = true ∧ encode i = some (a, w &&& usedBits i)

/-- R107, and R32 and R61 but for BACKTAB's end: every word at every mapped address decodes, and a word at any other address
is refused by name. That BACKTAB ends at 0x2EF, where R110's formula ends, and not at the 0x2D7 of R32 and R61 (which list
0x2D8 to 0x2EF as never read) is the model's choice (log entry 2). -/
def Obligations.DecodeCoversTheMap : Prop :=
  ∀ (modeq : Bool) (a : Nat) (w : Word),
    (Mapped a → ∃ i, decode modeq a w = .ok i) ∧ (¬ Mapped a → decode modeq a w = .error (.notDecoded a))

/-- Words of the spec's own vectors decode to the instructions they stand for (V-ENC-1, 4, 10, 12, 15, 17, 18, 22, 24). The
second stands in BACKTAB's last cell, at R110's address 0x2EF (log entry 2). -/
def Obligations.SpecWordsDecode : Prop :=
  decode false 0x200 0x3607#16 = .ok (.btFgbgCard 0 7 0 15 false) ∧
  decode false 0x2EF 0x0A0D#16 = .ok (.btFgbgCard 239 5 1 1 true) ∧
  decode true 0x200 0x07FB#16 = .ok (.btCsCardGrom 0 3 255 false) ∧
  decode true 0x200 0x1807#16 = .ok (.btCsCardGramFg3 0 7 0 false) ∧
  decode true 0x200 0x36D1#16 = .ok (.btCsSquares 0 1 2 3 7) ∧
  decode true 0x200 0x0E00#16 = .ok (.btCsCardGram 0 0 0 false) ∧
  decode true 0x00 0x0264#16 = .ok (.mobX 0 100 false true false) ∧
  decode true 0x08 0x0C32#16 = .ok (.mobY 0 50 false 0 true true) ∧
  decode true 0x10 0x082A#16 = .ok (.mobA 0 2 5 true false)

/-- R94, with the fields of R91 to R93 and R105's sums of shifts: what EVERY BACKTAB word decodes to, in bits of the word. In
FG/BG mode each word is F_BT_FGBG; in color-stack mode w[12:11] selects F_BT_CSQ (2) or the F_BT_CS rows (0, 1, 3). The
cells are R110's, 0x200 to 0x2EF; that BACKTAB ends there is the model's choice (log entry 2). -/
def Obligations.BacktabWordsDecode : Prop :=
  ∀ (n : Fin 240) (w : Word),
    decode false (0x200 + n.val) w = .ok (.btFgbgCard n (w.extractLsb' 0 3) (w.extractLsb' 3 6)
      ((((w >>> 9) &&& 3#16) ||| ((w >>> 10) &&& 0xC#16)).setWidth 4) (w.getLsbD 11)) ∧
    (w.extractLsb' 11 2 = 0#2 → decode true (0x200 + n.val) w =
      .ok (.btCsCardGrom n (w.extractLsb' 0 3) (w.extractLsb' 3 8) (w.getLsbD 13))) ∧
    (w.extractLsb' 11 2 = 1#2 → decode true (0x200 + n.val) w =
      .ok (.btCsCardGram n (w.extractLsb' 0 3) (w.extractLsb' 3 6) (w.getLsbD 13))) ∧
    (w.extractLsb' 11 2 = 3#2 → decode true (0x200 + n.val) w =
      .ok (.btCsCardGramFg3 n (w.extractLsb' 0 3) (w.extractLsb' 3 6) (w.getLsbD 13))) ∧
    (w.extractLsb' 11 2 = 2#2 → decode true (0x200 + n.val) w =
      .ok (.btCsSquares n (w.extractLsb' 0 3) (w.extractLsb' 3 3) (w.extractLsb' 6 3)
        ((((w >>> 9) &&& 3#16) ||| ((w >>> 11) &&& 4#16)).setWidth 3)))

/-- R95 to R103, with R105's sum of shifts for a MOB's FG: what EVERY word of the other cells decodes to, in bits of the
word and in either mode. -/
def Obligations.RegisterWordsDecode : Prop :=
  ∀ (modeq : Bool) (w : Word),
    (∀ i : Fin 8,
      decode modeq (0x00 + i.val) w =
        .ok (.mobX i (w.extractLsb' 0 8) (w.getLsbD 8) (w.getLsbD 9) (w.getLsbD 10)) ∧
      decode modeq (0x08 + i.val) w =
        .ok (.mobY i (w.extractLsb' 0 7) (w.getLsbD 7) (w.extractLsb' 8 2) (w.getLsbD 10) (w.getLsbD 11)) ∧
      decode modeq (0x10 + i.val) w =
        .ok (.mobA i (((w &&& 7#16) ||| ((w >>> 9) &&& 8#16)).setWidth 4) (w.extractLsb' 3 8) (w.getLsbD 11) (w.getLsbD 13)) ∧
      decode modeq (0x18 + i.val) w = .ok (.mobColl i (w.extractLsb' 0 8) (w.getLsbD 8) (w.getLsbD 9))) ∧
    (∀ k : Fin 4, decode modeq (0x28 + k.val) w = .ok (.cstkEntry k (w.extractLsb' 0 4))) ∧
    decode modeq 0x2C w = .ok (.borderColor (w.extractLsb' 0 4)) ∧
    decode modeq 0x30 w = .ok (.hdelay (w.extractLsb' 0 3)) ∧
    decode modeq 0x31 w = .ok (.vdelay (w.extractLsb' 0 3)) ∧
    decode modeq 0x32 w = .ok (.extend (w.getLsbD 0) (w.getLsbD 1)) ∧
    (∀ a : Nat, 0x3000 ≤ a → a < 0x3A00 → decode modeq a w = .ok (.graphicRow a (w.extractLsb' 0 8)))
end

