-- ==== Sys2Proof/Laws/Data.lean ====
section
/-! SUPPORT. The containers: what a mapped vector, a tabulated vector and a working buffer hold. -/

namespace Sys2Proof

theorem mapFrom_getElem {α β : Type} (f : Nat → α → β) (i : Nat) (l : List α) (x : Nat)
    (h : x < (mapFrom f i l).length) :
    (mapFrom f i l)[x] = f (i + x) (l[x]'(by rw [mapFrom_length] at h; exact h)) := by
  induction l generalizing i x with
  | nil => simp [mapFrom] at h
  | cons a l ih =>
    cases x with
    | zero => rfl
    | succ x =>
      have hx : x < (mapFrom f (i + 1) l).length := by simpa [mapFrom] using h
      have step := ih (i + 1) x hx
      simp only [mapFrom, List.getElem_cons_succ]
      rw [step, Nat.add_right_comm, Nat.add_assoc]

@[simp] theorem vecMapIdx_getElem {α β : Type} {n : Nat} (f : Nat → α → β) (v : Vector α n) (x : Nat) (h : x < n) :
    (vecMapIdx f v)[x] = f x v[x] := by
  have hl : x < (mapFrom f 0 v.toList).length := by simpa [mapFrom_length] using h
  have := mapFrom_getElem f 0 v.toList x hl
  simpa [vecMapIdx] using this

@[simp] theorem vecTabulate_getElem {α : Type} (n : Nat) (f : Nat → α) (x : Nat) (h : x < n) :
    (vecTabulate n f)[x] = f x := by
  simp [vecTabulate]

namespace Copies

@[simp] theorem get_mapCols {α : Type} (f : Nat → α → α) (b : Copies α) (k : Fin 2) :
    (b.mapCols f).get k = vecMapIdx f (b.get k) := by
  fin_cases k <;> rfl

@[simp] theorem get_fill {α : Type} (v : α) (k : Fin 2) :
    (Copies.fill v).get k = Vector.replicate 352 v := by
  fin_cases k <;> rfl

@[simp] theorem get_set_same {α : Type} (b : Copies α) (k : Fin 2) (r : Row α) : (b.set k r).get k = r := by
  fin_cases k <;> rfl

theorem get_set_other {α : Type} (b : Copies α) {k j : Fin 2} (h : k ≠ j) (r : Row α) :
    (b.set k r).get j = b.get j := by
  fin_cases k <;> fin_cases j <;> first | rfl | exact absurd rfl h

/-- Two working buffers are equal when both copies are. -/
theorem ext_get {α : Type} {a b : Copies α} (h : ∀ k, a.get k = b.get k) : a = b := by
  cases a; cases b
  have h0 := h 0
  have h1 := h 1
  simp only [get] at h0 h1
  rw [h0, h1]

end Copies

namespace Machine

/-- Reading a column inside the row is the plain element. -/
@[simp] theorem rowAt_of_lt {α : Type} (d : α) (r : Row α) (c : Nat) (h : c < 352) : rowAt d r c = r[c] := by
  simp [rowAt, List.getD, h]

end Machine

end Sys2Proof
end

