-- ==== Sys2Proof/Laws/Memory.lean ====
section
/-! SUPPORT. Shared memory: read after write, and the canonical form every write keeps. -/

namespace Sys2Proof.Machine

/-! ## Lists of cells -/

@[simp] theorem lookup_insert_same (a : Nat) (v : Word) (l : List (Nat × Word)) :
    Memory.lookup a (Memory.insert a v l) = some v := by
  induction l with
  | nil => simp [Memory.insert, Memory.lookup]
  | cons c l ih =>
    simp only [Memory.insert]
    split
    · simp [Memory.lookup]
    · split
      · simp [Memory.lookup]
      · next h1 h2 => rw [Memory.lookup, if_neg (fun h => h2 h.symm), ih]

theorem lookup_insert_other {a b : Nat} (h : b ≠ a) (v : Word) (l : List (Nat × Word)) :
    Memory.lookup b (Memory.insert a v l) = Memory.lookup b l := by
  induction l with
  | nil => simp [Memory.insert, Memory.lookup, Ne.symm h]
  | cons c l ih =>
    simp only [Memory.insert]
    split
    · rw [Memory.lookup, if_neg (Ne.symm h)]
    · split
      · next h1 h2 => simp [Memory.lookup, Ne.symm h, ← h2]
      · simp only [Memory.lookup, ih]

@[simp] theorem lookup_erase_same (a : Nat) (l : List (Nat × Word)) :
    Memory.lookup a (Memory.erase a l) = none := by
  induction l with
  | nil => rfl
  | cons c l ih =>
    simp only [Memory.erase]
    split
    · exact ih
    · next h => rw [Memory.lookup, if_neg h, ih]

theorem lookup_erase_other {a b : Nat} (h : b ≠ a) (l : List (Nat × Word)) :
    Memory.lookup b (Memory.erase a l) = Memory.lookup b l := by
  induction l with
  | nil => rfl
  | cons c l ih =>
    simp only [Memory.erase]
    split
    · next hc => rw [ih, Memory.lookup, if_neg (by rw [hc]; exact Ne.symm h)]
    · simp only [Memory.lookup, ih]

/-! ## Read after write (R62, R63) -/

@[simp] theorem write_base (m : Memory) (a : Nat) (v : Word) : (m.write a v).base = m.base := by
  unfold Memory.write; split <;> rfl

@[simp] theorem read_write_same (m : Memory) (a : Nat) (v : Word) : (m.write a v).read a = v := by
  unfold Memory.write
  split
  · next h => simp [Memory.read, Memory.unlisted, h]
  · simp [Memory.read]

theorem read_write_other (m : Memory) {a b : Nat} (h : b ≠ a) (v : Word) :
    (m.write a v).read b = m.read b := by
  unfold Memory.write
  split
  · simp [Memory.read, Memory.unlisted, lookup_erase_other h]
  · simp [Memory.read, Memory.unlisted, lookup_insert_other h]

/-- A write, read back at any address. -/
theorem read_write (m : Memory) (a b : Nat) (v : Word) :
    (m.write a v).read b = if b = a then v else m.read b := by
  by_cases h : b = a
  · rw [if_pos h, h, read_write_same]
  · rw [if_neg h, read_write_other m h]

/-! ## The canonical form -/

/-- Every entry of a rising list stands above an address below its head. -/
theorem rising_cons_iff (c : Nat × Word) (l : List (Nat × Word)) :
    Memory.rising (c :: l) = true ↔ (∀ d ∈ l, c.1 < d.1) ∧ Memory.rising l = true := by
  induction l generalizing c with
  | nil => simp [Memory.rising]
  | cons d l ih =>
    simp only [Memory.rising, Bool.and_eq_true, decide_eq_true_eq, List.mem_cons]
    constructor
    · rintro ⟨hcd, hl⟩
      refine ⟨?_, hl⟩
      rintro e (rfl | he)
      · exact hcd
      · exact lt_trans hcd (((ih d).mp hl).1 e he)
    · rintro ⟨hall, hl⟩
      exact ⟨hall d (Or.inl rfl), hl⟩

theorem mem_insert {a : Nat} {v : Word} {l : List (Nat × Word)} {e : Nat × Word}
    (h : e ∈ Memory.insert a v l) : e = (a, v) ∨ e ∈ l := by
  induction l with
  | nil => simpa [Memory.insert] using h
  | cons c l ih =>
    simp only [Memory.insert] at h
    split at h
    · rcases List.mem_cons.mp h with h | h
      · exact .inl h
      · exact .inr h
    · split at h
      · rcases List.mem_cons.mp h with h | h
        · exact .inl h
        · exact .inr (List.mem_cons_of_mem _ h)
      · rcases List.mem_cons.mp h with h | h
        · exact .inr (h ▸ List.mem_cons_self)
        · rcases ih h with h | h
          · exact .inl h
          · exact .inr (List.mem_cons_of_mem _ h)

theorem mem_erase {a : Nat} {l : List (Nat × Word)} {e : Nat × Word} (h : e ∈ Memory.erase a l) : e ∈ l := by
  induction l with
  | nil => exact h
  | cons c l ih =>
    simp only [Memory.erase] at h
    split at h
    · exact List.mem_cons_of_mem _ (ih h)
    · rcases List.mem_cons.mp h with h | h
      · exact h ▸ List.mem_cons_self
      · exact List.mem_cons_of_mem _ (ih h)

theorem rising_insert (a : Nat) (v : Word) (l : List (Nat × Word)) (h : Memory.rising l = true) :
    Memory.rising (Memory.insert a v l) = true := by
  induction l with
  | nil => rfl
  | cons c l ih =>
    have hc := (rising_cons_iff c l).mp h
    simp only [Memory.insert]
    split
    · next hlt =>
      refine (rising_cons_iff _ _).mpr ⟨?_, h⟩
      intro d hd
      rcases List.mem_cons.mp hd with rfl | hd
      · exact hlt
      · exact lt_trans hlt (hc.1 d hd)
    · split
      · next hge heq => exact (rising_cons_iff _ _).mpr ⟨fun d hd => by simpa [heq] using hc.1 d hd, hc.2⟩
      · next hge hne =>
        refine (rising_cons_iff _ _).mpr ⟨?_, ih hc.2⟩
        intro d hd
        rcases mem_insert hd with rfl | hd
        · simp only; omega
        · exact hc.1 d hd

theorem rising_erase (a : Nat) (l : List (Nat × Word)) (h : Memory.rising l = true) :
    Memory.rising (Memory.erase a l) = true := by
  induction l with
  | nil => rfl
  | cons c l ih =>
    have hc := (rising_cons_iff c l).mp h
    simp only [Memory.erase]
    split
    · exact ih hc.2
    · exact (rising_cons_iff _ _).mpr ⟨fun d hd => hc.1 d (mem_erase hd), ih hc.2⟩

/-- What the canonical form says. -/
theorem wf_iff (m : Memory) :
    m.wf = true ↔ Memory.rising m.cells = true ∧ ∀ v, m.base = some v → ∀ c ∈ m.cells, c.2 ≠ v := by
  unfold Memory.wf
  cases hb : m.base with
  | none => simp
  | some v => simp

/-- Every write keeps the canonical form. -/
theorem write_wf (m : Memory) (a : Nat) (v : Word) (h : m.wf = true) : (m.write a v).wf = true := by
  obtain ⟨hr, hv⟩ := (wf_iff m).mp h
  refine (wf_iff _).mpr ?_
  unfold Memory.write
  split
  · exact ⟨rising_erase a _ hr, fun w hw c hc => hv w hw c (mem_erase hc)⟩
  · next hne =>
    refine ⟨rising_insert a v _ hr, fun w hw c hc => ?_⟩
    rcases mem_insert hc with rfl | hc
    · intro heq
      exact hne (by rw [hw]; exact congrArg some heq.symm)
    · exact hv w hw c hc

end Sys2Proof.Machine
end

