-- ==== Sys2Proof/Laws/Finalize.lean ====
section
/-! SUPPORT. What each visit of FINALIZE does to one bit of one collision register, and to every other cell. -/

namespace Sys2Proof.Machine

theorem collAddr_inj {i j : Fin 8} : collAddr i = collAddr j ↔ i = j := by
  unfold collAddr
  omega

theorem regBit_getLsbD (i : Fin 8) (b : Nat) : (regBit i).getLsbD b = decide (b = i.val) := by
  unfold regBit
  rw [BitVec.getLsbD_shiftLeft]
  have hi := i.isLt
  by_cases h : b = i.val
  · subst h
    simp only [Nat.lt_irrefl, decide_false, Nat.sub_self, decide_true, Bool.not_false, Bool.and_true]
    rw [decide_eq_true (by omega)]
    rfl
  · rw [decide_eq_false h]
    by_cases h1 : b < i.val
    · simp [h1]
    · have : (1#16).getLsbD (b - i.val) = false := by
        rw [show (1#16) = 1#16 from rfl, BitVec.getLsbD_one]
        simp
        omega
      simp [this]

/-- Pass 1 clears the self bit of its register and no other bit. -/
theorem clearSelf_bit (m : Memory) (i k : Fin 8) (b : Nat) :
    ((clearSelf m i).read (collAddr k)).getLsbD b =
      ((m.read (collAddr k)).getLsbD b && !(decide (k = i) && decide (b = i.val))) := by
  unfold clearSelf
  rw [read_write]
  by_cases h : k = i
  · subst h
    rw [if_pos rfl, BitVec.getLsbD_and, BitVec.getLsbD_not, regBit_getLsbD]
    by_cases hb : b < 16
    · simp [hb]
    · simp [BitVec.getLsbD_of_ge _ b (Nat.le_of_not_lt hb)]
  · rw [if_neg (fun e => h (collAddr_inj.mp e))]
    simp [h]

/-- Pass 2, one pair: register j gets bit i if register i has bit j, and no other bit changes. -/
theorem mirrorPair_bit (i : Fin 8) (m : Memory) (j k : Fin 8) (b : Nat) :
    ((mirrorPair i m j).read (collAddr k)).getLsbD b =
      ((m.read (collAddr k)).getLsbD b ||
        (decide (k = j) && decide (j ≠ i) && decide (b = i.val) && (m.read (collAddr i)).getLsbD j.val)) := by
  unfold mirrorPair
  split
  · rename_i h
    rw [read_write]
    by_cases hk : k = j
    · subst hk
      rw [if_pos rfl, BitVec.getLsbD_or, regBit_getLsbD, h.2]
      simp [h.1]
    · rw [if_neg (fun e => hk (collAddr_inj.mp e))]
      simp [hk]
  · rename_i h
    by_cases hj : j = i
    · simp [hj]
    · have : (m.read (collAddr i)).getLsbD j.val = false := by
        cases hb : (m.read (collAddr i)).getLsbD j.val
        · rfl
        · exact absurd ⟨hj, hb⟩ h
      simp [this]

/-- Pass 2, one row over any list: register k gets bit i if register i has bit k and k is in the list. -/
theorem mirrorFold_bit (i : Fin 8) (l : List (Fin 8)) (m : Memory) (k : Fin 8) (b : Nat) :
    ((l.foldl (mirrorPair i) m).read (collAddr k)).getLsbD b =
      ((m.read (collAddr k)).getLsbD b ||
        (decide (k ∈ l) && decide (k ≠ i) && decide (b = i.val) && (m.read (collAddr i)).getLsbD k.val)) := by
  induction l generalizing m with
  | nil => simp
  | cons j l ih =>
    rw [List.foldl_cons, ih, mirrorPair_bit, mirrorPair_bit]
    by_cases hi : i = j
    · subst hi
      by_cases hk : k = i
      · simp [hk]
      · simp [hk]
    · have hi' : ¬ j = i := fun e => hi e.symm
      by_cases hk : k = j
      · subst hk
        cases (m.read (collAddr k)).getLsbD b <;> simp +contextual [hi, hi']
      · simp [hi, hk]

/-- A visit of either pass leaves every cell outside the registers alone. -/
theorem clearSelf_other (m : Memory) (i : Fin 8) {a : Nat} (h : a < 0x18 ∨ 0x20 ≤ a) : (clearSelf m i).read a = m.read a := by
  unfold clearSelf
  exact read_write_other m (by have := i.isLt; unfold collAddr; omega) _

theorem mirrorFold_other (i : Fin 8) (l : List (Fin 8)) (m : Memory) {a : Nat} (h : a < 0x18 ∨ 0x20 ≤ a) :
    (l.foldl (mirrorPair i) m).read a = m.read a := by
  induction l generalizing m with
  | nil => rfl
  | cons j l ih =>
    rw [List.foldl_cons, ih]
    unfold mirrorPair
    split
    · exact read_write_other m (by have := j.isLt; unfold collAddr; omega) _
    · rfl

end Sys2Proof.Machine
end

