-- ==== Sys2Proof/Laws/State.lean ====
section
/-! SUPPORT. One lemma per field per named update of State, each true by rfl, so that no proof unfolds a record
update. -/

namespace Sys2Proof.Machine

variable (s : State)

/-! ## setHdelay -/

@[simp] theorem setHdelay_mem (d : BitVec 3) : (setHdelay d s).mem = s.mem := rfl
@[simp] theorem setHdelay_mode (d : BitVec 3) : (setHdelay d s).mode = s.mode := rfl
@[simp] theorem setHdelay_params (d : BitVec 3) : (setHdelay d s).params = s.params := rfl
@[simp] theorem setHdelay_vd (d : BitVec 3) : (setHdelay d s).vd = s.vd := rfl
@[simp] theorem setHdelay_hd (d : BitVec 3) : (setHdelay d s).hd = 2 * (8 + d.toNat) := rfl
@[simp] theorem setHdelay_et (d : BitVec 3) : (setHdelay d s).et = s.et := rfl
@[simp] theorem setHdelay_el (d : BitVec 3) : (setHdelay d s).el = s.el := rfl
@[simp] theorem setHdelay_modeq (d : BitVec 3) : (setHdelay d s).modeq = s.modeq := rfl
@[simp] theorem setHdelay_csp (d : BitVec 3) : (setHdelay d s).csp = s.csp := rfl
@[simp] theorem setHdelay_cacheFg (d : BitVec 3) : (setHdelay d s).cacheFg = s.cacheFg := rfl
@[simp] theorem setHdelay_cacheBg (d : BitVec 3) : (setHdelay d s).cacheBg = s.cacheBg := rfl
@[simp] theorem setHdelay_pal7 (d : BitVec 3) : (setHdelay d s).pal7 = s.pal7 := rfl
@[simp] theorem setHdelay_cbuf (d : BitVec 3) : (setHdelay d s).cbuf = s.cbuf := rfl
@[simp] theorem setHdelay_bbuf (d : BitVec 3) : (setHdelay d s).bbuf = s.bbuf := rfl
@[simp] theorem setHdelay_frame (d : BitVec 3) : (setHdelay d s).frame = s.frame := rfl
@[simp] theorem setHdelay_seq (d : BitVec 3) : (setHdelay d s).seq = s.seq := rfl
@[simp] theorem setHdelay_inbox (d : BitVec 3) : (setHdelay d s).inbox = s.inbox := rfl
@[simp] theorem setHdelay_unit (d : BitVec 3) : (setHdelay d s).unit = s.unit := rfl
@[simp] theorem setHdelay_use (d : BitVec 3) : (setHdelay d s).use = s.use := rfl

/-! ## setVdelay -/

@[simp] theorem setVdelay_mem (d : BitVec 3) : (setVdelay d s).mem = s.mem := rfl
@[simp] theorem setVdelay_mode (d : BitVec 3) : (setVdelay d s).mode = s.mode := rfl
@[simp] theorem setVdelay_params (d : BitVec 3) : (setVdelay d s).params = s.params := rfl
@[simp] theorem setVdelay_vd (d : BitVec 3) : (setVdelay d s).vd = 8 + d.toNat := rfl
@[simp] theorem setVdelay_hd (d : BitVec 3) : (setVdelay d s).hd = s.hd := rfl
@[simp] theorem setVdelay_et (d : BitVec 3) : (setVdelay d s).et = s.et := rfl
@[simp] theorem setVdelay_el (d : BitVec 3) : (setVdelay d s).el = s.el := rfl
@[simp] theorem setVdelay_modeq (d : BitVec 3) : (setVdelay d s).modeq = s.modeq := rfl
@[simp] theorem setVdelay_csp (d : BitVec 3) : (setVdelay d s).csp = s.csp := rfl
@[simp] theorem setVdelay_cacheFg (d : BitVec 3) : (setVdelay d s).cacheFg = s.cacheFg := rfl
@[simp] theorem setVdelay_cacheBg (d : BitVec 3) : (setVdelay d s).cacheBg = s.cacheBg := rfl
@[simp] theorem setVdelay_pal7 (d : BitVec 3) : (setVdelay d s).pal7 = s.pal7 := rfl
@[simp] theorem setVdelay_cbuf (d : BitVec 3) : (setVdelay d s).cbuf = s.cbuf := rfl
@[simp] theorem setVdelay_bbuf (d : BitVec 3) : (setVdelay d s).bbuf = s.bbuf := rfl
@[simp] theorem setVdelay_frame (d : BitVec 3) : (setVdelay d s).frame = s.frame := rfl
@[simp] theorem setVdelay_seq (d : BitVec 3) : (setVdelay d s).seq = s.seq := rfl
@[simp] theorem setVdelay_inbox (d : BitVec 3) : (setVdelay d s).inbox = s.inbox := rfl
@[simp] theorem setVdelay_unit (d : BitVec 3) : (setVdelay d s).unit = s.unit := rfl
@[simp] theorem setVdelay_use (d : BitVec 3) : (setVdelay d s).use = s.use := rfl

/-! ## setExtend -/

@[simp] theorem setExtend_mem (l t : Bool) : (setExtend l t s).mem = s.mem := rfl
@[simp] theorem setExtend_mode (l t : Bool) : (setExtend l t s).mode = s.mode := rfl
@[simp] theorem setExtend_params (l t : Bool) : (setExtend l t s).params = s.params := rfl
@[simp] theorem setExtend_vd (l t : Bool) : (setExtend l t s).vd = s.vd := rfl
@[simp] theorem setExtend_hd (l t : Bool) : (setExtend l t s).hd = s.hd := rfl
@[simp] theorem setExtend_et (l t : Bool) : (setExtend l t s).et = t := rfl
@[simp] theorem setExtend_el (l t : Bool) : (setExtend l t s).el = l := rfl
@[simp] theorem setExtend_modeq (l t : Bool) : (setExtend l t s).modeq = s.modeq := rfl
@[simp] theorem setExtend_csp (l t : Bool) : (setExtend l t s).csp = s.csp := rfl
@[simp] theorem setExtend_cacheFg (l t : Bool) : (setExtend l t s).cacheFg = s.cacheFg := rfl
@[simp] theorem setExtend_cacheBg (l t : Bool) : (setExtend l t s).cacheBg = s.cacheBg := rfl
@[simp] theorem setExtend_pal7 (l t : Bool) : (setExtend l t s).pal7 = s.pal7 := rfl
@[simp] theorem setExtend_cbuf (l t : Bool) : (setExtend l t s).cbuf = s.cbuf := rfl
@[simp] theorem setExtend_bbuf (l t : Bool) : (setExtend l t s).bbuf = s.bbuf := rfl
@[simp] theorem setExtend_frame (l t : Bool) : (setExtend l t s).frame = s.frame := rfl
@[simp] theorem setExtend_seq (l t : Bool) : (setExtend l t s).seq = s.seq := rfl
@[simp] theorem setExtend_inbox (l t : Bool) : (setExtend l t s).inbox = s.inbox := rfl
@[simp] theorem setExtend_unit (l t : Bool) : (setExtend l t s).unit = s.unit := rfl
@[simp] theorem setExtend_use (l t : Bool) : (setExtend l t s).use = s.use := rfl

/-! ## sampleMode -/

@[simp] theorem sampleMode_mem : (sampleMode s).mem = s.mem := rfl
@[simp] theorem sampleMode_mode : (sampleMode s).mode = s.mode := rfl
@[simp] theorem sampleMode_params : (sampleMode s).params = s.params := rfl
@[simp] theorem sampleMode_vd : (sampleMode s).vd = s.vd := rfl
@[simp] theorem sampleMode_hd : (sampleMode s).hd = s.hd := rfl
@[simp] theorem sampleMode_et : (sampleMode s).et = s.et := rfl
@[simp] theorem sampleMode_el : (sampleMode s).el = s.el := rfl
@[simp] theorem sampleMode_modeq : (sampleMode s).modeq = decide (s.mode ≠ 0) := rfl
@[simp] theorem sampleMode_csp : (sampleMode s).csp = s.csp := rfl
@[simp] theorem sampleMode_cacheFg : (sampleMode s).cacheFg = s.cacheFg := rfl
@[simp] theorem sampleMode_cacheBg : (sampleMode s).cacheBg = s.cacheBg := rfl
@[simp] theorem sampleMode_pal7 : (sampleMode s).pal7 = s.pal7 := rfl
@[simp] theorem sampleMode_cbuf : (sampleMode s).cbuf = s.cbuf := rfl
@[simp] theorem sampleMode_bbuf : (sampleMode s).bbuf = s.bbuf := rfl
@[simp] theorem sampleMode_frame : (sampleMode s).frame = s.frame := rfl
@[simp] theorem sampleMode_seq : (sampleMode s).seq = s.seq := rfl
@[simp] theorem sampleMode_inbox : (sampleMode s).inbox = s.inbox := rfl
@[simp] theorem sampleMode_unit : (sampleMode s).unit = s.unit := rfl
@[simp] theorem sampleMode_use : (sampleMode s).use = s.use := rfl

/-! ## resetCsp -/

@[simp] theorem resetCsp_mem : (resetCsp s).mem = s.mem := rfl
@[simp] theorem resetCsp_mode : (resetCsp s).mode = s.mode := rfl
@[simp] theorem resetCsp_params : (resetCsp s).params = s.params := rfl
@[simp] theorem resetCsp_vd : (resetCsp s).vd = s.vd := rfl
@[simp] theorem resetCsp_hd : (resetCsp s).hd = s.hd := rfl
@[simp] theorem resetCsp_et : (resetCsp s).et = s.et := rfl
@[simp] theorem resetCsp_el : (resetCsp s).el = s.el := rfl
@[simp] theorem resetCsp_modeq : (resetCsp s).modeq = s.modeq := rfl
@[simp] theorem resetCsp_csp : (resetCsp s).csp = 0x28 := rfl
@[simp] theorem resetCsp_cacheFg : (resetCsp s).cacheFg = s.cacheFg := rfl
@[simp] theorem resetCsp_cacheBg : (resetCsp s).cacheBg = s.cacheBg := rfl
@[simp] theorem resetCsp_pal7 : (resetCsp s).pal7 = s.pal7 := rfl
@[simp] theorem resetCsp_cbuf : (resetCsp s).cbuf = s.cbuf := rfl
@[simp] theorem resetCsp_bbuf : (resetCsp s).bbuf = s.bbuf := rfl
@[simp] theorem resetCsp_frame : (resetCsp s).frame = s.frame := rfl
@[simp] theorem resetCsp_seq : (resetCsp s).seq = s.seq := rfl
@[simp] theorem resetCsp_inbox : (resetCsp s).inbox = s.inbox := rfl
@[simp] theorem resetCsp_unit : (resetCsp s).unit = s.unit := rfl
@[simp] theorem resetCsp_use : (resetCsp s).use = s.use := rfl

/-! ## cspAdvance -/

@[simp] theorem cspAdvance_mem : (cspAdvance s).mem = s.mem := rfl
@[simp] theorem cspAdvance_mode : (cspAdvance s).mode = s.mode := rfl
@[simp] theorem cspAdvance_params : (cspAdvance s).params = s.params := rfl
@[simp] theorem cspAdvance_vd : (cspAdvance s).vd = s.vd := rfl
@[simp] theorem cspAdvance_hd : (cspAdvance s).hd = s.hd := rfl
@[simp] theorem cspAdvance_et : (cspAdvance s).et = s.et := rfl
@[simp] theorem cspAdvance_el : (cspAdvance s).el = s.el := rfl
@[simp] theorem cspAdvance_modeq : (cspAdvance s).modeq = s.modeq := rfl
@[simp] theorem cspAdvance_csp : (cspAdvance s).csp = nextCsp s.csp := rfl
@[simp] theorem cspAdvance_cacheFg : (cspAdvance s).cacheFg = s.cacheFg := rfl
@[simp] theorem cspAdvance_cacheBg : (cspAdvance s).cacheBg = s.cacheBg := rfl
@[simp] theorem cspAdvance_pal7 : (cspAdvance s).pal7 = s.pal7 := rfl
@[simp] theorem cspAdvance_cbuf : (cspAdvance s).cbuf = s.cbuf := rfl
@[simp] theorem cspAdvance_bbuf : (cspAdvance s).bbuf = s.bbuf := rfl
@[simp] theorem cspAdvance_frame : (cspAdvance s).frame = s.frame := rfl
@[simp] theorem cspAdvance_seq : (cspAdvance s).seq = s.seq := rfl
@[simp] theorem cspAdvance_inbox : (cspAdvance s).inbox = s.inbox := rfl
@[simp] theorem cspAdvance_unit : (cspAdvance s).unit = s.unit := rfl
@[simp] theorem cspAdvance_use : (cspAdvance s).use = s.use := rfl

/-! ## sqOverride -/

@[simp] theorem sqOverride_mem (n : PalIdx) : (sqOverride n s).mem = s.mem := rfl
@[simp] theorem sqOverride_mode (n : PalIdx) : (sqOverride n s).mode = s.mode := rfl
@[simp] theorem sqOverride_params (n : PalIdx) : (sqOverride n s).params = s.params := rfl
@[simp] theorem sqOverride_vd (n : PalIdx) : (sqOverride n s).vd = s.vd := rfl
@[simp] theorem sqOverride_hd (n : PalIdx) : (sqOverride n s).hd = s.hd := rfl
@[simp] theorem sqOverride_et (n : PalIdx) : (sqOverride n s).et = s.et := rfl
@[simp] theorem sqOverride_el (n : PalIdx) : (sqOverride n s).el = s.el := rfl
@[simp] theorem sqOverride_modeq (n : PalIdx) : (sqOverride n s).modeq = s.modeq := rfl
@[simp] theorem sqOverride_csp (n : PalIdx) : (sqOverride n s).csp = s.csp := rfl
@[simp] theorem sqOverride_cacheFg (n : PalIdx) : (sqOverride n s).cacheFg = s.cacheFg := rfl
@[simp] theorem sqOverride_cacheBg (n : PalIdx) : (sqOverride n s).cacheBg = s.cacheBg := rfl
@[simp] theorem sqOverride_pal7 (n : PalIdx) : (sqOverride n s).pal7 = paletteColor s.params n := rfl
@[simp] theorem sqOverride_cbuf (n : PalIdx) : (sqOverride n s).cbuf = s.cbuf := rfl
@[simp] theorem sqOverride_bbuf (n : PalIdx) : (sqOverride n s).bbuf = s.bbuf := rfl
@[simp] theorem sqOverride_frame (n : PalIdx) : (sqOverride n s).frame = s.frame := rfl
@[simp] theorem sqOverride_seq (n : PalIdx) : (sqOverride n s).seq = s.seq := rfl
@[simp] theorem sqOverride_inbox (n : PalIdx) : (sqOverride n s).inbox = s.inbox := rfl
@[simp] theorem sqOverride_unit (n : PalIdx) : (sqOverride n s).unit = s.unit := rfl
@[simp] theorem sqOverride_use (n : PalIdx) : (sqOverride n s).use = s.use := rfl

/-! ## sqRestore -/

@[simp] theorem sqRestore_mem : (sqRestore s).mem = s.mem := rfl
@[simp] theorem sqRestore_mode : (sqRestore s).mode = s.mode := rfl
@[simp] theorem sqRestore_params : (sqRestore s).params = s.params := rfl
@[simp] theorem sqRestore_vd : (sqRestore s).vd = s.vd := rfl
@[simp] theorem sqRestore_hd : (sqRestore s).hd = s.hd := rfl
@[simp] theorem sqRestore_et : (sqRestore s).et = s.et := rfl
@[simp] theorem sqRestore_el : (sqRestore s).el = s.el := rfl
@[simp] theorem sqRestore_modeq : (sqRestore s).modeq = s.modeq := rfl
@[simp] theorem sqRestore_csp : (sqRestore s).csp = s.csp := rfl
@[simp] theorem sqRestore_cacheFg : (sqRestore s).cacheFg = s.cacheFg := rfl
@[simp] theorem sqRestore_cacheBg : (sqRestore s).cacheBg = s.cacheBg := rfl
@[simp] theorem sqRestore_pal7 : (sqRestore s).pal7 = paletteColor s.params 7 := rfl
@[simp] theorem sqRestore_cbuf : (sqRestore s).cbuf = s.cbuf := rfl
@[simp] theorem sqRestore_bbuf : (sqRestore s).bbuf = s.bbuf := rfl
@[simp] theorem sqRestore_frame : (sqRestore s).frame = s.frame := rfl
@[simp] theorem sqRestore_seq : (sqRestore s).seq = s.seq := rfl
@[simp] theorem sqRestore_inbox : (sqRestore s).inbox = s.inbox := rfl
@[simp] theorem sqRestore_unit : (sqRestore s).unit = s.unit := rfl
@[simp] theorem sqRestore_use : (sqRestore s).use = s.use := rfl

/-! ## clearBuffers -/

@[simp] theorem clearBuffers_mem : (clearBuffers s).mem = s.mem := rfl
@[simp] theorem clearBuffers_mode : (clearBuffers s).mode = s.mode := rfl
@[simp] theorem clearBuffers_params : (clearBuffers s).params = s.params := rfl
@[simp] theorem clearBuffers_vd : (clearBuffers s).vd = s.vd := rfl
@[simp] theorem clearBuffers_hd : (clearBuffers s).hd = s.hd := rfl
@[simp] theorem clearBuffers_et : (clearBuffers s).et = s.et := rfl
@[simp] theorem clearBuffers_el : (clearBuffers s).el = s.el := rfl
@[simp] theorem clearBuffers_modeq : (clearBuffers s).modeq = s.modeq := rfl
@[simp] theorem clearBuffers_csp : (clearBuffers s).csp = s.csp := rfl
@[simp] theorem clearBuffers_cacheFg : (clearBuffers s).cacheFg = s.cacheFg := rfl
@[simp] theorem clearBuffers_cacheBg : (clearBuffers s).cacheBg = s.cacheBg := rfl
@[simp] theorem clearBuffers_pal7 : (clearBuffers s).pal7 = s.pal7 := rfl
@[simp] theorem clearBuffers_cbuf : (clearBuffers s).cbuf = Copies.fill 0 := rfl
@[simp] theorem clearBuffers_bbuf : (clearBuffers s).bbuf = Copies.fill 0 := rfl
@[simp] theorem clearBuffers_frame : (clearBuffers s).frame = s.frame := rfl
@[simp] theorem clearBuffers_seq : (clearBuffers s).seq = s.seq := rfl
@[simp] theorem clearBuffers_inbox : (clearBuffers s).inbox = s.inbox := rfl
@[simp] theorem clearBuffers_unit : (clearBuffers s).unit = s.unit := rfl
@[simp] theorem clearBuffers_use : (clearBuffers s).use = s.use := rfl

/-! ## copyOut -/

@[simp] theorem copyOut_mem (n : Nat) : (copyOut n s).mem = s.mem := rfl
@[simp] theorem copyOut_mode (n : Nat) : (copyOut n s).mode = s.mode := rfl
@[simp] theorem copyOut_params (n : Nat) : (copyOut n s).params = s.params := rfl
@[simp] theorem copyOut_vd (n : Nat) : (copyOut n s).vd = s.vd := rfl
@[simp] theorem copyOut_hd (n : Nat) : (copyOut n s).hd = s.hd := rfl
@[simp] theorem copyOut_et (n : Nat) : (copyOut n s).et = s.et := rfl
@[simp] theorem copyOut_el (n : Nat) : (copyOut n s).el = s.el := rfl
@[simp] theorem copyOut_modeq (n : Nat) : (copyOut n s).modeq = s.modeq := rfl
@[simp] theorem copyOut_csp (n : Nat) : (copyOut n s).csp = s.csp := rfl
@[simp] theorem copyOut_cacheFg (n : Nat) : (copyOut n s).cacheFg = s.cacheFg := rfl
@[simp] theorem copyOut_cacheBg (n : Nat) : (copyOut n s).cacheBg = s.cacheBg := rfl
@[simp] theorem copyOut_pal7 (n : Nat) : (copyOut n s).pal7 = s.pal7 := rfl
@[simp] theorem copyOut_cbuf (n : Nat) : (copyOut n s).cbuf = s.cbuf := rfl
@[simp] theorem copyOut_bbuf (n : Nat) : (copyOut n s).bbuf = s.bbuf := rfl
@[simp] theorem copyOut_frame (n : Nat) : (copyOut n s).frame = (s.frame.setIfInBounds (2 * n) s.cbuf.full).setIfInBounds (2 * n + 1) s.cbuf.second := rfl
@[simp] theorem copyOut_seq (n : Nat) : (copyOut n s).seq = s.seq := rfl
@[simp] theorem copyOut_inbox (n : Nat) : (copyOut n s).inbox = s.inbox := rfl
@[simp] theorem copyOut_unit (n : Nat) : (copyOut n s).unit = s.unit := rfl
@[simp] theorem copyOut_use (n : Nat) : (copyOut n s).use = s.use := rfl

/-! ## paintCard -/

@[simp] theorem paintCard_mem (c : Nat) (px : Nat → Color) (tag : Nat → Bool) : (paintCard c px tag s).mem = s.mem := rfl
@[simp] theorem paintCard_mode (c : Nat) (px : Nat → Color) (tag : Nat → Bool) : (paintCard c px tag s).mode = s.mode := rfl
@[simp] theorem paintCard_params (c : Nat) (px : Nat → Color) (tag : Nat → Bool) : (paintCard c px tag s).params = s.params := rfl
@[simp] theorem paintCard_vd (c : Nat) (px : Nat → Color) (tag : Nat → Bool) : (paintCard c px tag s).vd = s.vd := rfl
@[simp] theorem paintCard_hd (c : Nat) (px : Nat → Color) (tag : Nat → Bool) : (paintCard c px tag s).hd = s.hd := rfl
@[simp] theorem paintCard_et (c : Nat) (px : Nat → Color) (tag : Nat → Bool) : (paintCard c px tag s).et = s.et := rfl
@[simp] theorem paintCard_el (c : Nat) (px : Nat → Color) (tag : Nat → Bool) : (paintCard c px tag s).el = s.el := rfl
@[simp] theorem paintCard_modeq (c : Nat) (px : Nat → Color) (tag : Nat → Bool) : (paintCard c px tag s).modeq = s.modeq := rfl
@[simp] theorem paintCard_csp (c : Nat) (px : Nat → Color) (tag : Nat → Bool) : (paintCard c px tag s).csp = s.csp := rfl
@[simp] theorem paintCard_cacheFg (c : Nat) (px : Nat → Color) (tag : Nat → Bool) : (paintCard c px tag s).cacheFg = s.cacheFg := rfl
@[simp] theorem paintCard_cacheBg (c : Nat) (px : Nat → Color) (tag : Nat → Bool) : (paintCard c px tag s).cacheBg = s.cacheBg := rfl
@[simp] theorem paintCard_pal7 (c : Nat) (px : Nat → Color) (tag : Nat → Bool) : (paintCard c px tag s).pal7 = s.pal7 := rfl
@[simp] theorem paintCard_frame (c : Nat) (px : Nat → Color) (tag : Nat → Bool) : (paintCard c px tag s).frame = s.frame := rfl
@[simp] theorem paintCard_seq (c : Nat) (px : Nat → Color) (tag : Nat → Bool) : (paintCard c px tag s).seq = s.seq := rfl
@[simp] theorem paintCard_inbox (c : Nat) (px : Nat → Color) (tag : Nat → Bool) : (paintCard c px tag s).inbox = s.inbox := rfl
@[simp] theorem paintCard_unit (c : Nat) (px : Nat → Color) (tag : Nat → Bool) : (paintCard c px tag s).unit = s.unit := rfl
@[simp] theorem paintCard_use (c : Nat) (px : Nat → Color) (tag : Nat → Bool) : (paintCard c px tag s).use = s.use := rfl

/-! ## paintCardRow -/

@[simp] theorem paintCardRow_mem (c : Nat) (g : Byte) (fg bg : PalIdx) : (paintCardRow c g fg bg s).mem = s.mem := rfl
@[simp] theorem paintCardRow_mode (c : Nat) (g : Byte) (fg bg : PalIdx) : (paintCardRow c g fg bg s).mode = s.mode := rfl
@[simp] theorem paintCardRow_params (c : Nat) (g : Byte) (fg bg : PalIdx) : (paintCardRow c g fg bg s).params = s.params := rfl
@[simp] theorem paintCardRow_vd (c : Nat) (g : Byte) (fg bg : PalIdx) : (paintCardRow c g fg bg s).vd = s.vd := rfl
@[simp] theorem paintCardRow_hd (c : Nat) (g : Byte) (fg bg : PalIdx) : (paintCardRow c g fg bg s).hd = s.hd := rfl
@[simp] theorem paintCardRow_et (c : Nat) (g : Byte) (fg bg : PalIdx) : (paintCardRow c g fg bg s).et = s.et := rfl
@[simp] theorem paintCardRow_el (c : Nat) (g : Byte) (fg bg : PalIdx) : (paintCardRow c g fg bg s).el = s.el := rfl
@[simp] theorem paintCardRow_modeq (c : Nat) (g : Byte) (fg bg : PalIdx) : (paintCardRow c g fg bg s).modeq = s.modeq := rfl
@[simp] theorem paintCardRow_csp (c : Nat) (g : Byte) (fg bg : PalIdx) : (paintCardRow c g fg bg s).csp = s.csp := rfl
@[simp] theorem paintCardRow_cacheFg (c : Nat) (g : Byte) (fg bg : PalIdx) : (paintCardRow c g fg bg s).cacheFg = s.cacheFg := rfl
@[simp] theorem paintCardRow_cacheBg (c : Nat) (g : Byte) (fg bg : PalIdx) : (paintCardRow c g fg bg s).cacheBg = s.cacheBg := rfl
@[simp] theorem paintCardRow_pal7 (c : Nat) (g : Byte) (fg bg : PalIdx) : (paintCardRow c g fg bg s).pal7 = s.pal7 := rfl
@[simp] theorem paintCardRow_frame (c : Nat) (g : Byte) (fg bg : PalIdx) : (paintCardRow c g fg bg s).frame = s.frame := rfl
@[simp] theorem paintCardRow_seq (c : Nat) (g : Byte) (fg bg : PalIdx) : (paintCardRow c g fg bg s).seq = s.seq := rfl
@[simp] theorem paintCardRow_inbox (c : Nat) (g : Byte) (fg bg : PalIdx) : (paintCardRow c g fg bg s).inbox = s.inbox := rfl
@[simp] theorem paintCardRow_unit (c : Nat) (g : Byte) (fg bg : PalIdx) : (paintCardRow c g fg bg s).unit = s.unit := rfl
@[simp] theorem paintCardRow_use (c : Nat) (g : Byte) (fg bg : PalIdx) : (paintCardRow c g fg bg s).use = s.use := rfl

/-! ## clearCol167 -/

@[simp] theorem clearCol167_mem : (clearCol167 s).mem = s.mem := rfl
@[simp] theorem clearCol167_mode : (clearCol167 s).mode = s.mode := rfl
@[simp] theorem clearCol167_params : (clearCol167 s).params = s.params := rfl
@[simp] theorem clearCol167_vd : (clearCol167 s).vd = s.vd := rfl
@[simp] theorem clearCol167_hd : (clearCol167 s).hd = s.hd := rfl
@[simp] theorem clearCol167_et : (clearCol167 s).et = s.et := rfl
@[simp] theorem clearCol167_el : (clearCol167 s).el = s.el := rfl
@[simp] theorem clearCol167_modeq : (clearCol167 s).modeq = s.modeq := rfl
@[simp] theorem clearCol167_csp : (clearCol167 s).csp = s.csp := rfl
@[simp] theorem clearCol167_cacheFg : (clearCol167 s).cacheFg = s.cacheFg := rfl
@[simp] theorem clearCol167_cacheBg : (clearCol167 s).cacheBg = s.cacheBg := rfl
@[simp] theorem clearCol167_pal7 : (clearCol167 s).pal7 = s.pal7 := rfl
@[simp] theorem clearCol167_cbuf : (clearCol167 s).cbuf = s.cbuf := rfl
@[simp] theorem clearCol167_frame : (clearCol167 s).frame = s.frame := rfl
@[simp] theorem clearCol167_seq : (clearCol167 s).seq = s.seq := rfl
@[simp] theorem clearCol167_inbox : (clearCol167 s).inbox = s.inbox := rfl
@[simp] theorem clearCol167_unit : (clearCol167 s).unit = s.unit := rfl
@[simp] theorem clearCol167_use : (clearCol167 s).use = s.use := rfl

/-! ## mobComposite -/

@[simp] theorem mobComposite_mode (i : Fin 8) (r : Word) : (mobComposite i r s).mode = s.mode := rfl
@[simp] theorem mobComposite_params (i : Fin 8) (r : Word) : (mobComposite i r s).params = s.params := rfl
@[simp] theorem mobComposite_vd (i : Fin 8) (r : Word) : (mobComposite i r s).vd = s.vd := rfl
@[simp] theorem mobComposite_hd (i : Fin 8) (r : Word) : (mobComposite i r s).hd = s.hd := rfl
@[simp] theorem mobComposite_et (i : Fin 8) (r : Word) : (mobComposite i r s).et = s.et := rfl
@[simp] theorem mobComposite_el (i : Fin 8) (r : Word) : (mobComposite i r s).el = s.el := rfl
@[simp] theorem mobComposite_modeq (i : Fin 8) (r : Word) : (mobComposite i r s).modeq = s.modeq := rfl
@[simp] theorem mobComposite_csp (i : Fin 8) (r : Word) : (mobComposite i r s).csp = s.csp := rfl
@[simp] theorem mobComposite_cacheFg (i : Fin 8) (r : Word) : (mobComposite i r s).cacheFg = s.cacheFg := rfl
@[simp] theorem mobComposite_cacheBg (i : Fin 8) (r : Word) : (mobComposite i r s).cacheBg = s.cacheBg := rfl
@[simp] theorem mobComposite_pal7 (i : Fin 8) (r : Word) : (mobComposite i r s).pal7 = s.pal7 := rfl
@[simp] theorem mobComposite_frame (i : Fin 8) (r : Word) : (mobComposite i r s).frame = s.frame := rfl
@[simp] theorem mobComposite_seq (i : Fin 8) (r : Word) : (mobComposite i r s).seq = s.seq := rfl
@[simp] theorem mobComposite_inbox (i : Fin 8) (r : Word) : (mobComposite i r s).inbox = s.inbox := rfl
@[simp] theorem mobComposite_unit (i : Fin 8) (r : Word) : (mobComposite i r s).unit = s.unit := rfl
@[simp] theorem mobComposite_use (i : Fin 8) (r : Word) : (mobComposite i r s).use = s.use := rfl

/-! ## finalize -/

@[simp] theorem finalize_mem : (finalize s).mem = finalizeMemory s.mem := rfl
@[simp] theorem finalize_mode : (finalize s).mode = s.mode := rfl
@[simp] theorem finalize_params : (finalize s).params = s.params := rfl
@[simp] theorem finalize_vd : (finalize s).vd = s.vd := rfl
@[simp] theorem finalize_hd : (finalize s).hd = s.hd := rfl
@[simp] theorem finalize_et : (finalize s).et = s.et := rfl
@[simp] theorem finalize_el : (finalize s).el = s.el := rfl
@[simp] theorem finalize_modeq : (finalize s).modeq = s.modeq := rfl
@[simp] theorem finalize_csp : (finalize s).csp = s.csp := rfl
@[simp] theorem finalize_cacheFg : (finalize s).cacheFg = s.cacheFg := rfl
@[simp] theorem finalize_cacheBg : (finalize s).cacheBg = s.cacheBg := rfl
@[simp] theorem finalize_pal7 : (finalize s).pal7 = s.pal7 := rfl
@[simp] theorem finalize_cbuf : (finalize s).cbuf = s.cbuf := rfl
@[simp] theorem finalize_bbuf : (finalize s).bbuf = s.bbuf := rfl
@[simp] theorem finalize_frame : (finalize s).frame = s.frame := rfl
@[simp] theorem finalize_seq : (finalize s).seq = s.seq := rfl
@[simp] theorem finalize_inbox : (finalize s).inbox = s.inbox := rfl
@[simp] theorem finalize_unit : (finalize s).unit = s.unit := rfl
@[simp] theorem finalize_use : (finalize s).use = s.use := rfl

end Sys2Proof.Machine
end

