-- ==== Sys2Proof/Laws/Operations.lean ====
section
/-! SUPPORT. One lemma per shared operation that says what it can do. -/

namespace Sys2Proof.Machine

/-! ## Geometry -/

/-- A column belongs to pixel `b` of a card exactly when it is BGX or BGX + 1 of that pixel. -/
theorem cardPixel_eq_some (hd col x b : Nat) :
    cardPixel hd col x = some b ↔ b < 8 ∧ (x = bgx hd col b ∨ x = bgx hd col b + 1) := by
  unfold cardPixel bgx
  split
  · simp only [Option.some.injEq]; omega
  · simp only [reduceCtorEq, false_iff]; omega

theorem cardPixel_eq_none (hd col x : Nat) :
    cardPixel hd col x = none ↔ x < hd + 16 * col ∨ hd + 16 * col + 16 ≤ x := by
  unfold cardPixel bgx
  split
  · simp only [reduceCtorEq, false_iff]; omega
  · simp only [true_iff]; omega

/-- A clipped column is the integer itself, inside the buffer. -/
theorem clip_eq_some (c : Int) (x : Nat) : clip c = some x ↔ c = (x : Int) ∧ x < 352 := by
  unfold clip
  split
  · simp only [Option.some.injEq]; omega
  · simp only [reduceCtorEq, false_iff]; omega

/-- Every draw cell is inside the buffer. -/
theorem drawCols_lt (u : Mob) (hd p x : Nat) (h : x ∈ u.drawCols hd p) : x < 352 := by
  obtain ⟨m, -, hm⟩ := List.mem_filterMap.mp h
  exact ((clip_eq_some _ _).mp hm).2

/-- Every tag cell is inside the buffer. -/
theorem tagCols_lt (u : Mob) (o : Vector Int 4) (hd p x : Nat) (h : x ∈ u.tagCols o hd p) : x < 352 := by
  unfold Mob.tagCols at h
  split at h
  · obtain ⟨m, -, hm⟩ := List.mem_filterMap.mp h
    exact ((clip_eq_some _ _).mp hm).2
  · exact drawCols_lt u hd p x h

/-- On the line: y <= sl < y + H. -/
theorem onLine_iff (u : Mob) (sl : Int) :
    u.onLine sl = true ↔ (u.y.toNat : Int) ≤ sl ∧ sl < (u.y.toNat : Int) + (u.height : Int) := by
  unfold Mob.onLine Mob.offset
  rw [Bool.and_eq_true, decide_eq_true_iff, decide_eq_true_iff]
  omega

/-- In the window the background line is VD lines below the raster line (R243, R244). -/
theorem bgLine_eq_some {s : State} {bl : Nat} {n : Fin 112} (h : s.seq = .rendering n) (hn : n.val = s.vd + bl)
    (hb : bl < 96) : s.bgLine = some bl := by
  simp only [State.bgLine, State.line, h]
  rw [if_pos (by omega)]
  congr 1
  omega

/-! ## Painting -/

theorem paintBorder_inside {line : Int} (h0 : 0 ≤ line) (h1 : line ≤ 111) (c : PalIdx) (s : State) :
    paintBorder line c s =
      { s with
        cbuf := s.cbuf.mapCols (fun x v => if inBorder s.vd s.hd s.et s.el line x then s.colorOf c else v)
        bbuf := s.bbuf.mapCols (fun x v => if inBorder s.vd s.hd s.et s.el line x then v ||| borderBit else v) } := by
  rw [paintBorder, if_neg (by omega)]

/-- Painting the border writes the two working buffers and nothing else. -/
theorem paintBorder_frame (line : Int) (c : PalIdx) (s : State) :
    paintBorder line c s =
      { s with cbuf := (paintBorder line c s).cbuf, bbuf := (paintBorder line c s).bbuf } := by
  unfold paintBorder
  split <;> rfl

theorem paintCard_color (col : Nat) (px : Nat → Color) (tag : Nat → Bool) (s : State) (k : Fin 2) (x : Nat)
    (h : x < 352) :
    ((paintCard col px tag s).cbuf.get k)[x] =
      (cardPixel s.hd col x).elim (s.cbuf.get k)[x] px := by
  simp [paintCard]

theorem paintCard_mask (col : Nat) (px : Nat → Color) (tag : Nat → Bool) (s : State) (k : Fin 2) (x : Nat)
    (h : x < 352) :
    ((paintCard col px tag s).bbuf.get k)[x] =
      (cardPixel s.hd col x).elim (s.bbuf.get k)[x]
        (fun b => if tag b then (s.bbuf.get k)[x] ||| bgBit else (s.bbuf.get k)[x]) := by
  simp [paintCard]

/-! ## Operand fetches -/

/-- A row fetched for a card is painted. -/
theorem fetchRow_cardRow (a : Nat) (col : Fin 20) (fg bg : PalIdx) (s : State) :
    fetchRow a (.cardRow col fg bg) s =
      { paintCardRow col.val (Layout.growRow.get (s.mem.read a)) fg bg s with use := .nothing } := rfl

/-- A row fetched for a MOB becomes its byte, mirrored if XFLIP is set. -/
theorem fetchRow_mobRow (a : Nat) (to0 to1 : Bool) (s : State) :
    fetchRow a (.mobRow to0 to1) s =
      { s with
        unit := { s.unit with
          b0 := if to0 then (if s.unit.xflip then rev (Layout.growRow.get (s.mem.read a))
            else Layout.growRow.get (s.mem.read a)) else s.unit.b0
          b1 := if to1 then (if s.unit.xflip then rev (Layout.growRow.get (s.mem.read a))
            else Layout.growRow.get (s.mem.read a)) else s.unit.b1 }
        use := .nothing } := rfl

/-- A stack entry fetched as a background is cached. -/
theorem fetchStack_cardBackground (col : Fin 20) (s : State) :
    fetchStack (.cardBackground col) s =
      { s with cacheBg := s.cacheBg.set col.val s.stackColor col.isLt, use := .nothing } := rfl

/-- A stack entry fetched for colored squares overrides slot 7. -/
theorem fetchStack_squareOverride (s : State) :
    fetchStack .squareOverride s = { s with pal7 := paletteColor s.params s.stackColor, use := .nothing } := rfl

/-- CS_CARD step 1 changes CSP, the two cache entries of its column, and nothing else. -/
theorem cacheCard_eq (col : Fin 20) (fg : PalIdx) (adv : Bool) (s : State) :
    cacheCard col fg adv s =
      { s with
        csp := if adv then nextCsp s.csp else s.csp
        cacheBg := s.cacheBg.set col.val (if adv then cspAdvance s else s).stackColor col.isLt
        cacheFg := s.cacheFg.set col.val fg col.isLt
        use := .nothing } := by
  cases adv <;> rfl

/-- MOB_ROWS changes the two bytes of the record and nothing else. -/
theorem fetchMobRows_frame (d : Nat) (s : State) :
    fetchMobRows d s =
      { s with
        unit := { s.unit with b0 := (fetchMobRows d s).unit.b0, b1 := (fetchMobRows d s).unit.b1 }
        use := .nothing } := by
  by_cases h : s.unit.ysize = 0
  · have e : fetchMobRows d s =
        fetchRow (s.unit.base + (s.unit.smallRow d + 1)) (.mobRow s.unit.yflip (!s.unit.yflip))
          (fetchRow (s.unit.base + s.unit.smallRow d) (.mobRow (!s.unit.yflip) s.unit.yflip) s) := if_pos h
    rw [e]; rfl
  · have e : fetchMobRows d s = fetchRow (s.unit.base + s.unit.largeRow d) (.mobRow true true) s := if_neg h
    rw [e]; rfl

/-! ## Accumulation -/

/-- Accumulating over cells sets a register bit exactly when it was set or some cell holds it. -/
theorem getLsbD_accumulate (b : Row Mask) (l : List Nat) (r : Word) (j : Nat) :
    (l.foldl (fun r c => r ||| maskToReg (rowAt 0#10 b c)) r).getLsbD j =
      (r.getLsbD j || l.any (fun c => (maskToReg (rowAt 0#10 b c)).getLsbD j)) := by
  induction l generalizing r with
  | nil => simp
  | cons c l ih => simp [ih, Bool.or_assoc]

/-- A mask never reaches register bits 15:10. -/
theorem maskToReg_high (m : Mask) {j : Nat} (h : 10 ≤ j) : (maskToReg m).getLsbD j = false := by
  unfold maskToReg
  rw [BitVec.getLsbD_setWidth, BitVec.getLsbD_of_ge m j h, Bool.and_false]

/-- Compositing keeps register bits 15:10 (R33). -/
theorem mobPixel_reg_high (i : Fin 8) (u : Mob) (color : Color) (hd : Nat) (o : Vector Int 4) (b : Byte)
    (cv : Canvas) (p : Nat) {j : Nat} (h : 10 ≤ j) :
    (mobPixel i u color hd o b cv p).reg.getLsbD j = cv.reg.getLsbD j := by
  unfold mobPixel
  split
  · simp only [mobPaint, mobCollide]
    split
    · simp only [getLsbD_accumulate, maskToReg_high _ h, List.any_eq_false.mpr (fun _ _ => Bool.false_ne_true),
        Bool.or_false]
    · rfl
  · rfl

theorem mobCopy_reg_high (i : Fin 8) (s : State) (k : Fin 2) (r : Word) (w : Bool) {j : Nat} (h : 10 ≤ j) :
    (mobCopy i s k r w).reg.getLsbD j = r.getLsbD j := by
  have fold : ∀ (l : List Nat) (cv : Canvas),
      (l.foldl (mobPixel i s.unit (s.colorOf s.unit.fg) s.hd s.params.dwTagOffsets (s.unit.byte k)) cv).reg.getLsbD j
        = cv.reg.getLsbD j := by
    intro l
    induction l with
    | nil => intro cv; rfl
    | cons p l ih => intro cv; rw [List.foldl_cons, ih, mobPixel_reg_high _ _ _ _ _ _ _ _ h]
  exact fold _ _

end Sys2Proof.Machine
end

