-- ==== Sys2Proof/Laws/PerInstr.lean ====
section
/-! SUPPORT. Laws about every instruction as syntax, one lemma per constructor. -/

namespace Sys2Proof

/-- The address map is read back: the cell at a cell's address is that cell (R32). -/
theorem Cell.ofAddr_addr (c : Cell) : Cell.ofAddr c.addr = some c := by
  cases c with
  | mobX i => have := i.isLt; unfold Cell.ofAddr Cell.addr; grind
  | mobY i => have := i.isLt; unfold Cell.ofAddr Cell.addr; grind
  | mobA i => have := i.isLt; unfold Cell.ofAddr Cell.addr; grind
  | mobColl i => have := i.isLt; unfold Cell.ofAddr Cell.addr; grind
  | cstk k => have := k.isLt; unfold Cell.ofAddr Cell.addr; grind
  | border => rfl
  | hdelay => rfl
  | vdelay => rfl
  | extend => rfl
  | backtab n => have := n.isLt; unfold Cell.ofAddr Cell.addr; grind
  | graphic o => have := o.isLt; unfold Cell.ofAddr Cell.addr; grind

/-- An address in the graphic region is a graphic cell's. -/
theorem Cell.ofAddr_graphic {a : Nat} (h : isGraphicAddr a = true) :
    ∃ o : Fin 0xA00, Cell.ofAddr a = some (.graphic o) ∧ 0x3000 + o.val = a := by
  have h' : 0x3000 ≤ a ∧ a < 0x3A00 := by simpa [isGraphicAddr] using h
  obtain ⟨o, rfl⟩ : ∃ o : Fin 0xA00, a = 0x3000 + o.val := ⟨⟨a - 0x3000, by omega⟩, by simp only; omega⟩
  exact ⟨o, Cell.ofAddr_addr (.graphic o), rfl⟩

namespace Laws.AddressIsRead

/-- A well-formed word instruction stands at an address the core reads. -/
def Statement (i : Instr) : Prop :=
  i.wf = true → ∀ a, encodeAddr i = some a → ∃ c, Cell.ofAddr a = some c ∧ c.addr = a

/-- An address that is a cell's own is read. -/
theorem of_cell {i : Instr} (c : Cell) (h : encodeAddr i = some c.addr) : Statement i := by
  intro _ a ha
  rw [h] at ha
  cases ha
  exact ⟨c, Cell.ofAddr_addr c, rfl⟩

theorem btFgbgCard (n : Fin 240) (fg : BitVec 3) (card : BitVec 6) (bg : BitVec 4) (gram : Bool) :
    Statement (.btFgbgCard n fg card bg gram) := of_cell (.backtab n) rfl

theorem btCsCardGrom (n : Fin 240) (fg : BitVec 3) (card : BitVec 8) (adv : Bool) :
    Statement (.btCsCardGrom n fg card adv) := of_cell (.backtab n) rfl

theorem btCsCardGram (n : Fin 240) (fg : BitVec 3) (card : BitVec 6) (adv : Bool) :
    Statement (.btCsCardGram n fg card adv) := of_cell (.backtab n) rfl

theorem btCsCardGramFg3 (n : Fin 240) (fg : BitVec 3) (card : BitVec 6) (adv : Bool) :
    Statement (.btCsCardGramFg3 n fg card adv) := of_cell (.backtab n) rfl

theorem btCsSquares (n : Fin 240) (c0 c1 c2 c3 : BitVec 3) :
    Statement (.btCsSquares n c0 c1 c2 c3) := of_cell (.backtab n) rfl

theorem mobX (i : Fin 8) (x : BitVec 8) (intr visb xsize : Bool) :
    Statement (.mobX i x intr visb xsize) := of_cell (.mobX i) rfl

theorem mobY (i : Fin 8) (y : BitVec 7) (yres : Bool) (ysize : BitVec 2) (xflip yflip : Bool) :
    Statement (.mobY i y yres ysize xflip yflip) := of_cell (.mobY i) rfl

theorem mobA (i : Fin 8) (fg : BitVec 4) (card : BitVec 8) (gram prio : Bool) :
    Statement (.mobA i fg card gram prio) := of_cell (.mobA i) rfl

theorem mobColl (i : Fin 8) (mob : BitVec 8) (bg border : Bool) :
    Statement (.mobColl i mob bg border) := of_cell (.mobColl i) rfl

theorem cstkEntry (slot : Fin 4) (color : BitVec 4) :
    Statement (.cstkEntry slot color) := of_cell (.cstk slot) rfl

theorem borderColor (color : BitVec 4) : Statement (.borderColor color) := of_cell .border rfl

theorem hdelay (d : BitVec 3) : Statement (.hdelay d) := of_cell .hdelay rfl

theorem vdelay (d : BitVec 3) : Statement (.vdelay d) := of_cell .vdelay rfl

theorem extend (left top : Bool) : Statement (.extend left top) := of_cell .extend rfl

theorem graphicRow (addr : Nat) (row : BitVec 8) : Statement (.graphicRow addr row) := by
  intro hw a ha
  cases ha
  obtain ⟨o, ho, he⟩ := Cell.ofAddr_graphic hw
  exact ⟨.graphic o, ho, he⟩

theorem renderFrame : Statement .renderFrame := by
  intro _ a ha
  cases ha

end Laws.AddressIsRead

end Sys2Proof
end

