-- ==== Sys2Proof/Laws/Words.lean ====
section
/-! SUPPORT. What every word that a LINE runs leaves alone, said once, and what a step is in each state of SEQ. -/

namespace Sys2Proof.Machine

/-- What a word of a LINE keeps: the host's side, the latches, FRAME, SEQ, every memory cell but the eight collision
registers and of those bits 15:10, and the canonical form of memory. -/
structure LineFrame (s t : State) : Prop where
  mode   : t.mode = s.mode
  params : t.params = s.params
  vd     : t.vd = s.vd
  hd     : t.hd = s.hd
  et     : t.et = s.et
  el     : t.el = s.el
  modeq  : t.modeq = s.modeq
  frame  : t.frame = s.frame
  seq    : t.seq = s.seq
  inbox  : t.inbox = s.inbox
  cells  : ∀ a : Nat, a < 0x18 ∨ 0x20 ≤ a → t.mem.read a = s.mem.read a
  kept   : ∀ (a j : Nat), 10 ≤ j → (t.mem.read a).getLsbD j = (s.mem.read a).getLsbD j
  wf     : s.mem.wf = true → t.mem.wf = true

namespace LineFrame

theorem refl (s : State) : LineFrame s s :=
  ⟨rfl, rfl, rfl, rfl, rfl, rfl, rfl, rfl, rfl, rfl, fun _ _ => rfl, fun _ _ _ => rfl, id⟩

theorem trans {s t u : State} (h : LineFrame s t) (k : LineFrame t u) : LineFrame s u :=
  ⟨k.mode.trans h.mode, k.params.trans h.params, k.vd.trans h.vd, k.hd.trans h.hd, k.et.trans h.et,
    k.el.trans h.el, k.modeq.trans h.modeq, k.frame.trans h.frame, k.seq.trans h.seq, k.inbox.trans h.inbox,
    fun a ha => (k.cells a ha).trans (h.cells a ha), fun a j hj => (k.kept a j hj).trans (h.kept a j hj),
    fun w => k.wf (h.wf w)⟩

/-- A change of fields outside the frame keeps the frame. -/
theorem of_same {s t : State}
    (h : t = { s with csp := t.csp, cacheFg := t.cacheFg, cacheBg := t.cacheBg, pal7 := t.pal7, cbuf := t.cbuf,
                      bbuf := t.bbuf, unit := t.unit, use := t.use }) : LineFrame s t := by
  rw [h]
  exact ⟨rfl, rfl, rfl, rfl, rfl, rfl, rfl, rfl, rfl, rfl, fun _ _ => rfl, fun _ _ _ => rfl, id⟩

end LineFrame

theorem collReg_high (old : Word) (mob : BitVec 8) (bg border : Bool) {j : Nat} (h : 10 ≤ j) :
    (collReg old mob bg border).getLsbD j = old.getLsbD j := by
  by_cases h16 : j < 16
  · have : j = 10 ∨ j = 11 ∨ j = 12 ∨ j = 13 ∨ j = 14 ∨ j = 15 := by omega
    rcases this with rfl | rfl | rfl | rfl | rfl | rfl <;>
      simp [collReg, Field.putFlag, Field.put, Layout.mobCMob, Layout.mobCBg, Layout.mobCBorder]
  · rw [BitVec.getLsbD_of_ge _ _ (by omega), BitVec.getLsbD_of_ge _ _ (by omega)]

theorem mobComposite_lineFrame (i : Fin 8) (mob : BitVec 8) (bg border : Bool) (s : State) :
    LineFrame s (mobComposite i (collReg (s.mem.read (collAddr i)) mob bg border) s) := by
  refine ⟨rfl, rfl, rfl, rfl, rfl, rfl, rfl, rfl, rfl, rfl, ?_, ?_, ?_⟩
  · intro a ha
    have hne : a ≠ collAddr i := by unfold collAddr; omega
    simp only [mobComposite]
    split
    · exact read_write_other _ hne _
    · rfl
  · intro a j hj
    simp only [mobComposite]
    split
    · rw [read_write]
      split
      · next h => rw [mobCopy_reg_high _ _ _ _ _ hj, mobCopy_reg_high _ _ _ _ _ hj, collReg_high _ _ _ _ hj, h]
      · rfl
    · rfl
  · intro hw
    simp only [mobComposite]
    split
    · exact write_wf _ _ _ hw
    · exact hw

/-- The state after an instruction that answers a next state is that state. -/
theorem after_next {i : Instr} {s t : State} (h : exec i s = .next t) : after i s = t := by
  rw [after, h]

/-- A LINE runs every word but the three that LATCH reads. -/
def lineWord : Instr → Bool
  | .hdelay _ | .vdelay _ | .extend .. | .renderFrame => false
  | .btFgbgCard .. | .btCsCardGrom .. | .btCsCardGram .. | .btCsCardGramFg3 .. | .btCsSquares ..
  | .mobX .. | .mobY .. | .mobA .. | .mobColl .. | .cstkEntry .. | .borderColor .. | .graphicRow .. => true

theorem rowArrives_lineFrame (g : Byte) (s : State) : LineFrame s (rowArrives g s) := by
  apply LineFrame.of_same
  unfold rowArrives
  split <;> rfl

theorem stackWord_lineFrame (c : PalIdx) (s : State) : LineFrame s (stackWord c s) := by
  apply LineFrame.of_same
  unfold stackWord
  split <;> rfl

theorem paintBorder_lineFrame (line : Int) (c : PalIdx) (s : State) : LineFrame s (paintBorder line c s) := by
  apply LineFrame.of_same
  unfold paintBorder
  split <;> rfl

theorem csCard_lineFrame (col : Fin 20) (fg : PalIdx) (gram : Bool) (card : Nat) (adv : Bool) (sub : Nat)
    (s : State) : LineFrame s (csCard col fg gram card adv sub s) := by
  apply LineFrame.of_same
  simp only [csCard, fetchRow_cardRow]
  split
  · rw [cacheCard_eq]; rfl
  · rfl

/-- The word of a LINE leaves its frame alone. -/
theorem after_lineFrame (i : Instr) (h : lineWord i = true) (s : State) : LineFrame s (after i s) := by
  cases i with
  | btFgbgCard n fg card bg gram =>
    simp only [after, exec, execBtFgbgCard]
    cases s.bgLine with
    | none => exact .refl s
    | some bl => exact .of_same rfl
  | btCsCardGrom n fg card adv =>
    simp only [after, exec, execBtCsCardGrom]
    cases s.bgLine with
    | none => exact .refl s
    | some bl => exact csCard_lineFrame _ _ _ _ _ _ s
  | btCsCardGram n fg card adv =>
    simp only [after, exec, execBtCsCardGram]
    cases s.bgLine with
    | none => exact .refl s
    | some bl => exact csCard_lineFrame _ _ _ _ _ _ s
  | btCsCardGramFg3 n fg card adv =>
    simp only [after, exec, execBtCsCardGramFg3]
    cases s.bgLine with
    | none => exact .refl s
    | some bl => exact csCard_lineFrame _ _ _ _ _ _ s
  | btCsSquares n c0 c1 c2 c3 =>
    simp only [after, exec, execBtCsSquares]
    cases s.bgLine with
    | none => exact .refl s
    | some bl => exact .of_same rfl
  | mobX k x intr visb xsize => exact .of_same rfl
  | mobY k y yres ysize xflip yflip => exact .of_same rfl
  | mobA k fg card gram prio => exact .of_same rfl
  | mobColl k mob bg border =>
    simp only [after, exec, execMobColl]
    cases s.spriteLine with
    | none => exact .refl s
    | some sl =>
      simp only [mobPass]
      split
      · have h1 : LineFrame s (clearCol167 s) := .of_same rfl
        have h2 : LineFrame s (fetchMobRows (s.unit.offset sl).toNat (clearCol167 s)) :=
          h1.trans (.of_same (by rw [fetchMobRows_frame]))
        have hm : (fetchMobRows (s.unit.offset sl).toNat (clearCol167 s)).mem = s.mem := by
          rw [fetchMobRows_frame]; rfl
        have h3 := mobComposite_lineFrame k mob bg border (fetchMobRows (s.unit.offset sl).toNat (clearCol167 s))
        rw [hm] at h3
        exact (h2.trans h3).trans (.of_same rfl)
      · exact .of_same rfl
  | cstkEntry slot color => exact stackWord_lineFrame color s
  | borderColor color =>
    simp only [after, exec, execBorderColor]
    cases s.line with
    | none => exact .refl s
    | some n => exact paintBorder_lineFrame _ color s
  | graphicRow a row => exact rowArrives_lineFrame row s
  | hdelay d => exact absurd h (by simp [lineWord])
  | vdelay d => exact absurd h (by simp [lineWord])
  | extend l t => exact absurd h (by simp [lineWord])
  | renderFrame => exact absurd h (by simp [lineWord])

/-! ## The cells a LINE runs -/

/-- The cells a LINE runs: the border color, BACKTAB, and the MOB registers. -/
def lineCell : Cell → Bool
  | .border | .backtab _ | .mobX _ | .mobY _ | .mobA _ | .mobColl _ => true
  | .cstk _ | .hdelay | .vdelay | .extend | .graphic _ => false

theorem lineWord_decodeCell (m : Bool) (c : Cell) (w : Word) (h : lineCell c = true) :
    lineWord (decodeCell m c w) = true := by
  cases c with
  | backtab n =>
    cases m with
    | false => rfl
    | true =>
      show lineWord (decodeCs n w) = true
      unfold decodeCs
      split
      · rfl
      · split
        · rfl
        · split <;> rfl
  | mobX i => rfl
  | mobY i => rfl
  | mobA i => rfl
  | mobColl i => rfl
  | border => rfl
  | cstk k => exact absurd h (by simp [lineCell])
  | hdelay => exact absurd h (by simp [lineCell])
  | vdelay => exact absurd h (by simp [lineCell])
  | extend => exact absurd h (by simp [lineCell])
  | graphic o => exact absurd h (by simp [lineCell])

theorem runCell_lineFrame (s : State) (c : Cell) (h : lineCell c = true) : LineFrame s (runCell s c) :=
  after_lineFrame _ (lineWord_decodeCell _ _ _ h) s

/-- Running cells one after another keeps the frame: the induction, once. -/
theorem runCells_lineFrame (l : List Cell) (h : ∀ c ∈ l, lineCell c = true) (s : State) :
    LineFrame s (l.foldl runCell s) := by
  induction l generalizing s with
  | nil => exact .refl s
  | cons c l ih =>
    exact (runCell_lineFrame s c (h c List.mem_cons_self)).trans
      (ih (fun d hd => h d (List.mem_cons_of_mem _ hd)) _)

/-! ## A step in each state of SEQ -/

theorem step_idle {s : State} (h : s.seq = .idle) : step s = hostTurn s := by
  simp [step, sequencerStep, h]

theorem step_line {s : State} {n : Fin 112} (h : s.seq = .rendering n) :
    step s = .next { lineStep n s with seq := seqAfter n } := by
  simp [step, sequencerStep, h]

theorem step_finalizing {s : State} (h : s.seq = .finalizing) :
    step s = .next { finalize s with seq := .idle } := by
  simp [step, sequencerStep, h]

end Sys2Proof.Machine
end

