-- ==== Sys2Proof/Tests/Slice0.lean ====
section
/-! SUPPORT. Tests. Expected values come from spec/95_test_vectors.md (each test names its vector) or from the worked example
of the rule it names; the witnesses at the end show that the hypotheses of every statement can be met. -/

namespace Sys2Proof.Tests

open Sys2Proof Sys2Proof.Machine Sys2Proof.Claims

/-! ## Small states -/

/-- A palette in which P[n] = n for n in 1..15. -/
def params : Params :=
  { palette1to15 := vecTabulate 15 (fun n => BitVec.ofNat 24 (n + 1))
    dwTagOffsets := Config.dwTagDefault
    col167Cells := Config.col167Default }

/-- Memory of zeros but for the listed cells. -/
def memOf (l : List (Nat × Word)) : Memory := l.foldl (fun m c => m.write c.1 c.2) { base := some 0, cells := [] }

/-- Default latches, all buffers clear, MODEQ = 0, SEQ = IDLE (the conventions of spec/95_test_vectors.md). -/
def still (l : List (Nat × Word)) : State :=
  { mem := memOf l, mode := 0, params := params, vd := 8, hd := 16, et := false, el := false, modeq := false, csp := 0x28
    cacheFg := Vector.replicate 20 0, cacheBg := Vector.replicate 20 0, pal7 := 7
    cbuf := Copies.fill 0, bbuf := Copies.fill 0, frame := Vector.replicate 224 (Vector.replicate 352 0)
    seq := .idle, inbox := [], unit := Mob.blank, use := .nothing }

/-- The same, rendering line `n`. -/
def onLine (n : Fin 112) (l : List (Nat × Word)) : State := { still l with seq := .rendering n }

/-- The stack (1, 2, 3, 4) of spec/95_test_vectors.md 2.5. -/
def stack : List (Nat × Word) := [(0x28, 1), (0x29, 2), (0x2A, 3), (0x2B, 4)]

/-- The next state, with a fallback that no test reaches. -/
def nextOf (o : Host.Outcome State Fault Refusal) (d : State) : State :=
  match o with
  | .next t => t
  | .fault _ => d
  | .refused _ => d

/-- Was the outcome a next state? -/
def isNext (o : Host.Outcome State Fault Refusal) : Bool :=
  match o with
  | .next _ => true
  | .fault _ => false
  | .refused _ => false

/-- A row written as runs of equal values. -/
def runs {α : Type} (l : List (Nat × α)) : List α := l.flatMap (fun r => List.replicate r.1 r.2)

/-- What `c` columns from column `a` hold in copy `k`. -/
def cols {α : Type} (b : Copies α) (k : Fin 2) (a c : Nat) : List α := ((b.get k).toList.drop a).take c

/-! ## WellFormed -/

theorem test_wf_refuses_row_below_grom : (Instr.graphicRow 0x2FFF 0xFF).wf = false := by decide
theorem test_wf_refuses_row_above_gram : (Instr.graphicRow 0x3A00 0xFF).wf = false := by decide
theorem test_wf_accepts_first_and_last_row :
    (Instr.graphicRow 0x3000 0).wf = true ∧ (Instr.graphicRow 0x39FF 0).wf = true := by decide

/-! ## Decoding: words written out from the format tables -/

/-- V-ENC-1: 0x3607 = 00 11 0 11 000000 111. -/
theorem test_decode_fgbg : decode false 0x200 0b0011011000000111#16 = .ok (.btFgbgCard 0 7 0 15 false) := by decide
/-- V-ENC-4 and V-ENC-7 (bits 15:14 ignored). -/
theorem test_decode_fgbg_gram_and_ignored : decode false 0x201 0x0A0D#16 = .ok (.btFgbgCard 1 5 1 1 true) ∧
    decode false 0x2EF 0xC000#16 = .ok (.btFgbgCard 239 0 0 0 false) := by decide
/-- V-ENC-8, V-ENC-10: 0x07FB = 00 0 0 0 11111111 011. -/
theorem test_decode_cs_grom : decode true 0x200 0x2000#16 = .ok (.btCsCardGrom 0 0 0 true) ∧
    decode true 0x200 0b0000011111111011#16 = .ok (.btCsCardGrom 0 3 255 false) := by decide
/-- V-ENC-11, V-ENC-17: bits 10:9 ignored. -/
theorem test_decode_cs_gram : decode true 0x200 0x0FF8#16 = .ok (.btCsCardGram 0 0 63 false) ∧
    decode true 0x200 0b0000111000000000#16 = .ok (.btCsCardGram 0 0 0 false) := by decide
/-- V-ENC-12, V-ENC-14. -/
theorem test_decode_cs_gram_fg3 : decode true 0x200 0b0001100000000111#16 = .ok (.btCsCardGramFg3 0 7 0 false) ∧
    decode true 0x200 0x3FFF#16 = .ok (.btCsCardGramFg3 0 7 63 true) := by decide
/-- V-ENC-15, V-ENC-16: 0x36D1 = 00 1 1 0 11 011 010 001. -/
theorem test_decode_csq : decode true 0x213 0b0011011011010001#16 = .ok (.btCsSquares 19 1 2 3 7) ∧
    decode true 0x200 0x1007#16 = .ok (.btCsSquares 0 7 0 0 0) := by decide
/-- V-ENC-18, V-ENC-20. -/
theorem test_decode_mob_x : decode false 0x00 0b0000001001100100#16 = .ok (.mobX 0 100 false true false) ∧
    decode true 0x07 0x0464#16 = .ok (.mobX 7 100 false false true) := by decide
/-- V-ENC-22, V-ENC-23. -/
theorem test_decode_mob_y : decode false 0x08 0b0000110000110010#16 = .ok (.mobY 0 50 false 0 true true) ∧
    decode false 0x0F 0x01B2#16 = .ok (.mobY 7 50 true 1 false false) := by decide
/-- V-ENC-26, V-ENC-27, V-ENC-28. -/
theorem test_decode_mob_a : decode false 0x10 0x0FF8#16 = .ok (.mobA 0 0 255 true false) ∧
    decode false 0x11 0b0001000000000111#16 = .ok (.mobA 1 15 0 false false) ∧
    decode false 0x17 0x2802#16 = .ok (.mobA 7 2 0 true true) := by decide
/-- R98: 1 1 10000001 with the kept bits 15:10 set. -/
theorem test_decode_mob_coll : decode false 0x1F 0b1111111110000001#16 = .ok (.mobColl 7 0x81 true true) := by decide
/-- R99, R100, V-LAT-4: bits 15:4 ignored. -/
theorem test_decode_stack_and_border : decode true 0x2B 0b0000000000010111#16 = .ok (.cstkEntry 3 7) ∧
    decode true 0x2C 0x00F3#16 = .ok (.borderColor 3) := by decide
/-- V-LAT-2, V-LAT-3. -/
theorem test_decode_delays_and_extend : decode false 0x30 0xFFFF#16 = .ok (.hdelay 7) ∧
    decode false 0x31 0x0008#16 = .ok (.vdelay 0) ∧ decode false 0x32 0b110#16 = .ok (.extend false true) := by decide
/-- R103: bits 15:8 ignored; GROM and GRAM meet at 0x3800. -/
theorem test_decode_graphic_row : decode false 0x37FF 0b1010101010000001#16 = .ok (.graphicRow 0x37FF 0x81) ∧
    decode false 0x3800 0x0100#16 = .ok (.graphicRow 0x3800 0) := by decide
/-- R61: cells the core does not read are refused by name. -/
theorem test_decode_refuses_unread_cells :
    ([0x20, 0x27, 0x2D, 0x2F, 0x33, 0x1FF, 0x2F0, 0x2FFF, 0x3A00].all
      (fun a => decide (decode true a 0 = .error (.notDecoded a)))) = true := by decide
/-- R104: no bits are the host command; the other lengths are those of log entry 9. -/
theorem test_decode_table_words : decodeTableWord 0 0 = some .renderFrame ∧
    decodeTableWord 8 0x05 = some (.borderColor 5) ∧
    decodeTableWord 16 0x36D1 = some (.btCsSquares 0 1 2 3 7) ∧ decodeTableWord 24 0 = none := by decide
/-- R109: the text forms' words. -/
theorem test_encode_text_forms : encode (.btFgbgCard 239 5 1 1 true) = some (0x2EF, 0x0A0D#16) ∧
    encode (.btCsSquares 0 1 2 3 7) = some (0x200, 0x36D1#16) ∧ encode .renderFrame = none := by decide

/-! ## Palette and REV -/

/-- V-REV-1 to V-REV-6. -/
theorem test_rev : rev 0x01 = 0x80 ∧ rev 0xF0 = 0x0F ∧ rev 0x12 = 0x48 ∧ rev 0xA5 = 0xA5 ∧ rev 0xC0 = 0x03 ∧
    rev 0x6B = 0xD6 ∧ rev (rev 0x6B) = 0x6B := by decide
/-- V-PAL-1, V-PAL-2. -/
theorem test_color_of : (still []).colorOf 0 = 0x0C0005 ∧ (still []).colorOf 7 = 7 ∧ (still []).colorOf 15 = 15 := by decide
/-- V-PAL-3, V-PAL-5: the entry as the proxy of slot 7. -/
theorem test_cstk_entry_override :
    (nextOf (exec (.cstkEntry 0 5) { still [] with use := .squareOverride }) (still [])).colorOf 7 = 5 ∧
    (nextOf (exec (.cstkEntry 0 7) { still [] with use := .squareOverride }) (still [])).pal7 = 7 := by decide
/-- V-PAL-4: SQ_RESTORE. -/
theorem test_sq_restore : (sqRestore (sqOverride 5 (still []))).colorOf 7 = 7 := by decide

/-! ## Control registers and the host command -/

/-- V-LAT-2: M[0x30] = 3 and M[0x31] = 7. -/
theorem test_hdelay : (nextOf (exec (.hdelay 3) (still [])) (still [])).hd = 22 := by decide
theorem test_vdelay : (nextOf (exec (.vdelay 7) (still [])) (still [])).vd = 15 := by decide
/-- V-LAT-3: EXT_LEFT is bit 0, EXT_TOP bit 1. -/
theorem test_extend : (nextOf (exec (.extend false true) (still [])) (still [])).et = true ∧
    (nextOf (exec (.extend false true) (still [])) (still [])).el = false := by decide
/-- V-LAT-3 and R242: LATCH, with any non-zero MODE. -/
theorem test_render_frame_latches :
    let s := { still [(0x30, 0xFFFF), (0x31, 0x0008), (0x32, 0x0006)] with mode := -2, csp := 0x2B }
    let t := nextOf (exec .renderFrame s) s
    t.hd = 30 ∧ t.vd = 8 ∧ t.et = true ∧ t.el = false ∧ t.modeq = true ∧ t.csp = 0x28 ∧ t.seq = .rendering 0 := by decide
/-- V-ORC-2: refused while a frame is in progress. -/
theorem test_render_frame_refused : isNext (exec .renderFrame (onLine 3 [])) = false := by decide

/-! ## Border -/

/-- V-BOR-3: line 8 with default latches. -/
theorem test_border_margins :
    let t := nextOf (exec (.borderColor 5) (onLine 8 [])) (still [])
    t.cbuf.full.toList = runs [(16, 5), (320, 0), (16, 5)] ∧
    t.bbuf.second.toList = runs [(16, 0x200), (320, 0), (16, 0x200)] := by decide +kernel
/-- V-BOR-17, V-BOR-18: the largest delays and both extends, lines 22 and 23. -/
theorem test_border_extended :
    let s := fun n => { onLine n [] with hd := 30, vd := 15, et := true, el := true }
    (nextOf (exec (.borderColor 5) (s 22)) (still [])).bbuf.full.toList = runs [(352, 0x200)] ∧
    (nextOf (exec (.borderColor 5) (s 23)) (still [])).cbuf.second.toList = runs [(46, 5), (304, 0), (2, 5)] := by decide +kernel
/-- V-BOR-1 to V-BOR-14: which lines are full width. -/
theorem test_full_width :
    (fullWidth 8 false 7 = true ∧ fullWidth 8 false 8 = false ∧ fullWidth 8 false 103 = false ∧ fullWidth 8 false 104 = true) ∧
    (fullWidth 8 true 15 = true ∧ fullWidth 8 true 16 = false) ∧
    (fullWidth 15 false 14 = true ∧ fullWidth 15 false 15 = false ∧ fullWidth 15 false 110 = false ∧
      fullWidth 15 false 111 = true) := by decide

/-! ## Background -/

/-- V-FB-3: BACKTAB[0] = 0x0A0D, M[0x3808] = 0x80, on background line 0. -/
theorem test_fgbg_gram_card :
    let t := nextOf (exec (.btFgbgCard 0 5 1 1 true) (onLine 8 [(0x3808, 0x80)])) (still [])
    t.cbuf.full.toList = runs [(16, 0), (2, 5), (14, 1), (320, 0)] ∧
    t.bbuf.second.toList = runs [(16, 0), (2, 0x100), (334, 0)] := by decide +kernel
/-- V-FB-6: the last cell on the last background line. -/
theorem test_fgbg_last_cell :
    let t := nextOf (exec (.btFgbgCard 239 1 0 0 false) (onLine 103 [(0x3007, 0xFF)])) (still [])
    t.cbuf.second.toList = runs [(320, 0), (16, 1), (16, 0)] ∧
    t.bbuf.full.toList = runs [(320, 0), (16, 0x100), (16, 0)] := by decide +kernel
/-- V-CS-2: 0x2000 on sub-row 0 advances first, then caches. -/
theorem test_cs_grom_advance :
    let t := nextOf (exec (.btCsCardGrom 0 0 0 true) (onLine 8 stack)) (still [])
    t.csp = 0x29 ∧ t.cacheBg.toList = runs [(1, 2), (19, 0)] ∧ cols t.cbuf 0 16 17 = runs [(16, 2), (1, 0)] := by decide
/-- V-CS-3: the same card on sub-row 1 shows the cached color and leaves CSP. -/
theorem test_cs_grom_later_sub_row :
    let s := { onLine 9 stack with csp := 0x2A, cacheBg := Vector.replicate 20 2 }
    let t := nextOf (exec (.btCsCardGrom 0 0 0 true) s) (still [])
    t.csp = 0x2A ∧ t.cacheBg = s.cacheBg ∧ cols t.cbuf 1 16 16 = runs [(16, 2)] := by decide
/-- V-ENC-11 with R162: GRAM card 63 reads 0x39F8. -/
theorem test_cs_gram :
    let t := nextOf (exec (.btCsCardGram 0 0 63 false) (onLine 8 ((0x39F8, 0x01) :: stack))) (still [])
    t.csp = 0x28 ∧ cols t.cbuf 0 16 16 = runs [(14, 1), (2, 0x0C0005)] ∧ cols t.bbuf 0 16 16 = runs [(14, 0), (2, 0x100)] := by
  decide
/-- V-CS-6: 0x1807 with M[0x3800] = 0x80. -/
theorem test_cs_gram_fg3 :
    let t := nextOf (exec (.btCsCardGramFg3 0 7 0 false) (onLine 8 ((0x3800, 0x80) :: stack))) (still [])
    cols t.cbuf 0 16 16 = runs [(2, 15), (14, 1)] ∧ cols t.bbuf 1 16 16 = runs [(2, 0x100), (14, 0)] := by decide
/-- V-CS-5, sub-row 0: the upper squares. -/
theorem test_csq_upper :
    let t := nextOf (exec (.btCsSquares 0 1 2 3 7) (onLine 8 stack)) (still [])
    cols t.cbuf 0 16 16 = runs [(8, 1), (8, 2)] ∧ cols t.bbuf 1 16 16 = runs [(16, 0x100)] := by decide
/-- V-CS-5, sub-row 4: the lower squares; selector 7 shows the stack color and sets no bit; slot 7 is restored. -/
theorem test_csq_lower :
    let t := nextOf (exec (.btCsSquares 0 1 2 3 7) (onLine 12 stack)) (still [])
    cols t.cbuf 0 16 16 = runs [(8, 3), (8, 1)] ∧ cols t.bbuf 0 16 16 = runs [(8, 0x100), (8, 0)] ∧ t.colorOf 7 = 7 := by decide
/-- R161: the entry as a card's background. -/
theorem test_cstk_entry_background :
    (nextOf (exec (.cstkEntry 1 9) { still [] with use := .cardBackground 19 }) (still [])).cacheBg.toList =
      runs [(19, 0), (1, 9)] := by decide
/-- R153's example: g = 0x80 at column 19. -/
theorem test_graphic_row_card :
    cols (nextOf (exec (.graphicRow 0x3000 0x80) { still [] with use := .cardRow 19 1 3 }) (still [])).cbuf 0 320 17 =
      runs [(2, 1), (14, 3), (1, 0)] := by decide +kernel
/-- V-CS-8. -/
theorem test_csp_wraps : (cspAdvance { still [] with csp := 0x2B }).csp = 0x28 := by decide

/-! ## MOBs -/

/-- A MOB at x = 100, y = 50, visible, GRAM card 0, FG 4. -/
def mob100 : Mob := { Mob.blank with x := 100, y := 50, visb := true, gram := true, fg := 4 }

/-- V-ENC-18, V-ENC-22, V-ENC-24: the three words build the record. -/
theorem test_mob_x : (nextOf (exec (.mobX 0 100 false true false) (still [])) (still [])).unit =
    { Mob.blank with x := 100, visb := true } := by decide
theorem test_mob_y : (nextOf (exec (.mobY 0 50 false 0 true true) (still [])) (still [])).unit =
    { Mob.blank with y := 50, xflip := true, yflip := true } := by decide
theorem test_mob_a : (nextOf (exec (.mobA 0 2 5 true false) (still [])) (still [])).unit =
    { Mob.blank with fg := 2, card := 5, gram := true } := by decide
/-- The record of three register words, field by field from R181. -/
def mobOf (wx wy wa : Word) : Mob :=
  { Mob.blank with
    x := wx.extractLsb' 0 8, intr := wx.getLsbD 8, visb := wx.getLsbD 9, xsize := wx.getLsbD 10
    y := wy.extractLsb' 0 7, yres := wy.getLsbD 7, ysize := wy.extractLsb' 8 2, xflip := wy.getLsbD 10
    yflip := wy.getLsbD 11, fg := wa.extractLsb' 12 1 ++ wa.extractLsb' 0 3, card := wa.extractLsb' 3 8
    gram := wa.getLsbD 11, prio := wa.getLsbD 13 }
/-- V-MOB-1: the enable test. -/
theorem test_mob_enabled :
    let e := fun (w : Word) => (mobOf w 0 0).enabled
    (e 0x0200 = false ∧ e 0x0201 = true ∧ e 0x02A7 = true ∧ e 0x02A8 = false) ∧
    (e 0x02FF = false ∧ e 0x0064 = false ∧ e 0x0164 = true ∧ e 0x0464 = false) := by decide
/-- V-MOB-2: heights and rows. -/
theorem test_mob_sizes :
    ([(0, false, 4, 8), (1, false, 8, 8), (2, false, 16, 8), (3, false, 32, 8), (0, true, 8, 16), (1, true, 16, 16),
      (2, true, 32, 16), (3, true, 64, 16)].all (fun (r : BitVec 2 × Bool × Nat × Nat) =>
        decide (({ Mob.blank with ysize := r.1, yres := r.2.1 }).height = r.2.2.1 ∧
          ({ Mob.blank with ysize := r.1, yres := r.2.1 }).rows = r.2.2.2))) = true := by decide
/-- V-ENC-24, V-ENC-25, V-ENC-26: MOB_BASE. -/
theorem test_mob_base :
    let b := fun (wa wy : Word) => (mobOf 0 wy wa).base
    b 0x082A 0 = 0x3828 ∧ b 0x082A 0x0080 = 0x3820 ∧ b 0x0640 0 = 0x3640 ∧ b 0x0FF8 0 = 0x39F8 := by decide
/-- V-MOB-3: rows G[n] = n; (YSIZE, YRES, YFLIP, d) and the bytes of the two copies. -/
theorem test_mob_rows :
    ([(0, false, false, 0, 0, 1), (0, false, false, 3, 6, 7), (0, false, true, 0, 7, 6), (0, false, true, 3, 1, 0),
      (0, true, false, 7, 14, 15), (0, true, true, 7, 1, 0), (1, false, false, 5, 5, 5), (1, true, false, 9, 9, 9),
      (2, false, false, 5, 2, 2), (2, false, true, 5, 5, 5), (3, true, false, 63, 15, 15), (3, true, true, 63, 0, 0)].all
      (fun (r : BitVec 2 × Bool × Bool × Nat × Byte × Byte) =>
        let u := { mob100 with ysize := r.1, yres := r.2.1, yflip := r.2.2.1 }
        let s := { still ((List.range 16).map (fun n => (0x3800 + n, BitVec.ofNat 16 n))) with unit := u }
        let t := fetchMobRows r.2.2.2.1 s
        decide (t.unit.b0 = r.2.2.2.2.1 ∧ t.unit.b1 = r.2.2.2.2.2))) = true := by decide
/-- R189: a MOB's row is mirrored with XFLIP. -/
theorem test_graphic_row_mob :
    let s := { still [] with unit := { Mob.blank with xflip := true }, use := .mobRow true false }
    (nextOf (exec (.graphicRow 0x3800 0xC0) s) s).unit = { Mob.blank with xflip := true, b0 := 0x03 } := by decide
/-- V-MOB-5: draw cells, with the clip at column 352. -/
theorem test_mob_columns :
    (mob100.drawCols 16 0 = [200, 201] ∧ ({ mob100 with xsize := true }).drawCols 16 7 = [228, 229, 230, 231]) ∧
    (({ mob100 with x := 167 }).drawCols 16 7 = [348, 349] ∧ ({ mob100 with x := 1 }).drawCols 16 0 = [2, 3]) ∧
    (({ mob100 with x := 167, xsize := true }).drawCols 16 4 = [350, 351] ∧
      ({ mob100 with x := 167, xsize := true }).drawCols 16 5 = []) := by decide

/-- V-MOB-6: MOB 3 with one set bit, at columns 200 and 201 of copy 0. Answers M[0x1B], BBUF and CBUF of column 200. -/
def oneCell (intr visb prio : Bool) (b : Mask) (g : Word) : Word × Mask × Color :=
  let u := { mob100 with intr := intr, visb := visb, prio := prio }
  let s := { onLine 50 [(0x3800, g)] with
    unit := u
    bbuf := { Copies.fill 0 with full := ((Vector.replicate 352 0).setIfInBounds 200 b).setIfInBounds 201 b }
    cbuf := Copies.fill 9 }
  let t := nextOf (exec (.mobColl 3 0 false false) s) s
  (t.mem.read 0x1B, rowAt 0 t.bbuf.full 200, rowAt 0 t.cbuf.full 200)

/-- V-MOB-6, cases A to G. -/
theorem test_mob_coll_one_cell :
    (oneCell true true false 0x100 0x80 = (0x100, 0x108, 4) ∧ oneCell true true true 0x100 0x80 = (0x100, 0x108, 9)) ∧
    (oneCell true true true 0x200 0x80 = (0x200, 0x208, 4) ∧ oneCell false true false 0x100 0x80 = (0, 0x100, 4)) ∧
    (oneCell true false false 0x020 0x80 = (0x020, 0x028, 9) ∧ oneCell true true false 0x100 0x00 = (0, 0x100, 9)) ∧
    oneCell false true true 0x100 0x80 = (0, 0x100, 9) := by decide +kernel

/-- V-MOB-10: the second of two MOBs does not see a tag in the cleared cells; with no cells in COL167_CELLS it does. -/
theorem test_mob_coll_column_clear :
    let s := fun (c : List (Fin 2 × Int)) =>
      { onLine 50 [(0x3800, 0xFF), (0x3801, 0xFF)] with
        unit := { mob100 with x := 167, visb := false, intr := true }
        params := { params with col167Cells := c }
        bbuf := (Copies.fill 0).mapCols (fun x _ => if x < 320 then 0 else if x < 336 then 0x002 else 0x200) }
    (nextOf (exec (.mobColl 0 0 false false) (s Config.col167Default)) (still [])).mem.read 0x18 = 0x0200 ∧
    (nextOf (exec (.mobColl 0 0 false false) (s [])) (still [])).mem.read 0x18 = 0x0202 := by decide +kernel

/-! ## FINALIZE and the sequencer -/

/-- FINALIZE on eight registers, as a list. -/
def finalizeList (l : List Word) : List Word :=
  let m := finalizeMemory (memOf (mapFrom (fun i v => (0x18 + i, v)) 0 l))
  (List.range 8).map (fun i => m.read (0x18 + i))

/-- V-COL-1 to V-COL-4, V-COL-6. -/
theorem test_finalize :
    (finalizeList [0, 0, 0xC004, 0, 0, 0, 0, 0] = [0, 0, 0xC000, 0, 0, 0, 0, 0] ∧
      finalizeList [0x0080, 0, 0, 0, 0, 0, 0, 0] = [0x0080, 0, 0, 0, 0, 0, 0, 0x0001]) ∧
    (finalizeList [0x0081, 0, 0, 0, 0, 0, 0, 0x0100] = [0x0080, 0, 0, 0, 0, 0, 0, 0x0101] ∧
      finalizeList [0x0302, 0, 0, 0, 0, 0, 0, 0] = [0x0302, 0x0001, 0, 0, 0, 0, 0, 0]) ∧
    finalizeList [0, 0, 0, 0x0028, 0, 0, 0, 0] = [0, 0, 0, 0x0020, 0, 0x0008, 0, 0] := by decide +kernel
/-- V-COL-5: every register 0x00FF. -/
theorem test_finalize_all : finalizeList (List.replicate 8 0x00FF) =
    [0x00FE, 0x00FD, 0x00FB, 0x00F7, 0x00EF, 0x00DF, 0x00BF, 0x007F] := by decide +kernel
/-- V-ORC-1, its last row: FINALIZING steps to IDLE. -/
theorem test_step_finalizing :
    let s := { still [(0x18, 0x0080)] with seq := .finalizing }
    (nextOf (step s) s).seq = .idle ∧ (nextOf (step s) s).mem.read 0x1F = 0x0001 := by decide +kernel
/-- V-ORC-4, V-ORC-6: the background and sprite lines. -/
theorem test_lines : (onLine 8 []).bgLine = some 0 ∧ (onLine 7 []).bgLine = none ∧ (onLine 7 []).spriteLine = some 7 ∧
    ({ onLine 111 [] with vd := 15 }).bgLine = none ∧ ({ onLine 110 [] with vd := 15 }).bgLine = some 95 ∧
    ({ onLine 111 [] with vd := 15 }).spriteLine = some 104 := by decide

/-! ## Witnesses: the hypotheses of the statements can be met, clause by clause and at the ends of their ranges -/

/-- Background lines 0 and 95 with VD = 8, and with VD = 15. -/
theorem witness_InWindow : InWindow (onLine 8 []) 0 ∧ InWindow (onLine 103 []) 95 ∧
    InWindow { onLine 15 [] with vd := 15 } 0 ∧ InWindow { onLine 110 [] with vd := 15 } 95 :=
  ⟨⟨8, rfl, rfl, by decide⟩, ⟨103, rfl, rfl, by decide⟩, ⟨15, rfl, rfl, by decide⟩, ⟨110, rfl, rfl, by decide⟩⟩

/-- No background line: idle, line 7, line 104. -/
theorem witness_outside_window :
    (∀ bl, ¬ InWindow (still []) bl) ∧ (∀ bl, ¬ InWindow (onLine 7 []) bl) ∧ (∀ bl, ¬ InWindow (onLine 104 []) bl) := by
  refine ⟨?_, ?_, ?_⟩ <;> rintro bl ⟨n, h, hv, hb⟩ <;> simp [still, onLine] at h hv
  all_goals (subst h; simp at hv; try omega)

theorem witness_RenderFrameLatches : (still []).seq = .idle := rfl

theorem witness_RenderFrameOutsideIdleRefused : (onLine 0 []).seq ≠ .idle ∧ (onLine 111 []).seq ≠ .idle ∧
    ({ still [] with seq := .finalizing }).seq ≠ .idle := by decide

/-- The two cases of the last clause: the command as the oldest move; another move, or none. -/
theorem witness_SequencerTransitions_idle :
    (let s := { still [] with inbox := [.renderFrame] }
     s.seq = .idle ∧ isNext (step s) = true ∧ s.inbox = .renderFrame :: []) ∧
    (let s := { still [] with inbox := [.setMode 1, .renderFrame] }
     s.seq = .idle ∧ isNext (step s) = true ∧ ¬ ∃ rest, s.inbox = .renderFrame :: rest) ∧
    ¬ ∃ rest, (still []).inbox = .renderFrame :: rest :=
  ⟨⟨rfl, rfl, rfl⟩, ⟨rfl, rfl, by rintro ⟨r, h⟩; simp at h⟩, by rintro ⟨r, h⟩; simp [still] at h⟩

theorem witness_SequencerTransitions : ((still []).seq = .idle ∧ isNext (step (still [])) = true) ∧
    ((0 : Fin 112).val < 111 ∧ (onLine 0 []).seq = .rendering 0) ∧
    ((110 : Fin 112).val < 111 ∧ (onLine 110 []).seq = .rendering 110) ∧
    (onLine 111 []).seq = .rendering 111 ∧ ({ still [] with seq := .finalizing }).seq = .finalizing := by decide

/-- Clause 1: the words at the two ends of BACKTAB, in both modes, and the last cell of the map. -/
theorem witness_StepRunsDecodedInstruction_word :
    (let s := onLine 8 [(0x200, 0x3607), (0x2EF, 0x0A0D)]
     decode s.modeq (Cell.backtab 0).addr (s.mem.read (Cell.backtab 0).addr) = .ok (.btFgbgCard 0 7 0 15 false) ∧
     decode s.modeq (Cell.backtab 239).addr (s.mem.read (Cell.backtab 239).addr) = .ok (.btFgbgCard 239 5 1 1 true)) ∧
    (let s := { onLine 8 [(0x200, 0x36D1), (0x39FF, 0x80)] with modeq := true }
     decode s.modeq (Cell.backtab 0).addr (s.mem.read (Cell.backtab 0).addr) = .ok (.btCsSquares 0 1 2 3 7) ∧
     decode s.modeq (Cell.graphic 0x9FF).addr (s.mem.read (Cell.graphic 0x9FF).addr) =
       .ok (.graphicRow 0x39FF 0x80)) := by decide

/-- Clauses 2 to 5: SEQ at the first and last line, a card row at either end of the window, and a command in IDLE. -/
theorem witness_StepRunsDecodedInstruction_step :
    ((onLine 0 []).seq = .rendering 0 ∧ (onLine 111 []).seq = .rendering 111) ∧
    (InWindow (onLine 8 []) 0 ∧ (0 : Fin 12).val = 0 / 8) ∧ (InWindow (onLine 103 []) 95 ∧ (11 : Fin 12).val = 95 / 8) ∧
    (∀ bl, ¬ InWindow (onLine 7 []) bl) ∧
    (({ still [] with inbox := [.renderFrame] }).seq = .idle ∧
      ({ still [] with inbox := [.renderFrame] }).inbox = .renderFrame :: []) :=
  ⟨⟨rfl, rfl⟩, ⟨witness_InWindow.1, rfl⟩, ⟨witness_InWindow.2.1, rfl⟩, witness_outside_window.2.1, rfl, rfl⟩

/-- Clauses 6 and 7: the first and last graphic cell, and a stack entry at either end of the stack. -/
theorem witness_StepRunsDecodedInstruction_operand :
    (let s := onLine 8 [(0x3000, 0x80), (0x39FF, 0x1FF)]
     decode s.modeq (0x3000 + (0 : Fin 0xA00).val) (s.mem.read (0x3000 + (0 : Fin 0xA00).val)) = .ok (.graphicRow 0x3000 0x80) ∧
     decode s.modeq (0x3000 + (0x9FF : Fin 0xA00).val) (s.mem.read (0x3000 + (0x9FF : Fin 0xA00).val)) =
       .ok (.graphicRow 0x39FF 0xFF)) ∧
    (let s := fun c => { onLine 8 stack with csp := c }
     decode (s 0x28).modeq (s 0x28).csp ((s 0x28).mem.read (s 0x28).csp) = .ok (.cstkEntry 0 1) ∧
     decode (s 0x2B).modeq (s 0x2B).csp ((s 0x2B).mem.read (s 0x2B).csp) = .ok (.cstkEntry 3 4)) := by decide

theorem witness_NothingStops : Instr.hdelay 0 ≠ .renderFrame ∧ Instr.graphicRow 0x3000 0 ≠ .renderFrame := by decide

theorem witness_WordsWithoutTheirOperation :
    (isBacktab (.btFgbgCard 0 0 0 0 false) = true ∧ isBacktab (.btCsSquares 239 7 7 7 7) = true ∧
      ∀ bl, ¬ InWindow (onLine 104 []) bl) ∧
    (∀ n, (still []).seq ≠ .rendering n) ∧ (∀ n, ({ still [] with seq := .finalizing }).seq ≠ .rendering n) :=
  ⟨⟨rfl, rfl, witness_outside_window.2.2⟩, fun n => by simp [still], fun n => by simp⟩

theorem witness_ColorLookup : (7 : PalIdx) = 7 ∧ (0 : PalIdx) ≠ 7 ∧ (15 : PalIdx) ≠ 7 ∧
    (1 : PalIdx).toNat = (0 : Fin 15).val + 1 ∧ (15 : PalIdx).toNat = (14 : Fin 15).val + 1 := by decide

/-- A line with a border, and columns of each clause: painted on a full-width line, painted in either margin, untouched
between them. -/
theorem witness_BorderColorPaintsBorder :
    let s := onLine 8 []
    (onLine 0 []).seq = .rendering 0 ∧ s.seq = .rendering 8 ∧ 0 < (onLine 0 []).vd + 8 * (onLine 0 []).et.toNat ∧
    15 < s.hd + 16 * s.el.toNat ∧ s.hd + 320 ≤ 336 ∧
    ¬ (8 < s.vd + 8 * s.et.toNat ∨ s.vd + 96 ≤ 8 ∨ 16 < s.hd + 16 * s.el.toNat ∨ s.hd + 320 ≤ 16) ∧
    ¬ (8 < s.vd + 8 * s.et.toNat ∨ s.vd + 96 ≤ 8 ∨ 335 < s.hd + 16 * s.el.toNat ∨ s.hd + 320 ≤ 335) := by decide

theorem witness_BorderOutsideDisplay : ((-1 : Int) < 0 ∨ (111 : Int) < -1) ∧ ((112 : Int) < 0 ∨ (111 : Int) < 112) := by
  decide

theorem witness_FgbgCardPaints : InWindow (onLine 8 []) 0 ∧ InWindow (onLine 103 []) 95 :=
  ⟨witness_InWindow.1, witness_InWindow.2.1⟩

/-- A painted column, and a column left alone, of card column 19: columns 320 to 335 with HD = 16. -/
theorem witness_CardPainted_columns :
    ((0 : Nat) < 8 ∧ (0 : Nat) < 2 ∧ 320 = (still []).hd + 16 * 19 + 2 * 0 + 0) ∧
    ((7 : Nat) < 8 ∧ (1 : Nat) < 2 ∧ 335 = (still []).hd + 16 * 19 + 2 * 7 + 1) ∧
    319 < (still []).hd + 16 * 19 ∧ (still []).hd + 16 * 19 + 16 ≤ 336 := by decide

/-- Each of the three F_BT_CS rows, on sub-row 0 and on another. -/
theorem witness_CsCardCachesOnFirstSubRow :
    csOperands (.btCsCardGrom 0 3 255 true) = some (0, 3, false, 255, true) ∧
    csOperands (.btCsCardGram 20 3 63 false) = some (20, 3, true, 63, false) ∧
    csOperands (.btCsCardGramFg3 239 7 0 true) = some (239, 15, true, 0, true) ∧
    (InWindow (onLine 8 []) 0 ∧ 0 % 8 = 0) ∧ (InWindow (onLine 103 []) 95 ∧ 95 % 8 ≠ 0) :=
  ⟨rfl, rfl, rfl, ⟨witness_InWindow.1, rfl⟩, witness_InWindow.2.1, by decide⟩

theorem witness_CsCardPaints :
    csOperands (.btCsCardGrom 239 3 255 true) = some (239, 3, false, 255, true) ∧ InWindow (onLine 103 []) 95 ∧
    (19 : Fin 20).val = (239 : Fin 240).val % 20 :=
  ⟨rfl, witness_InWindow.2.1, rfl⟩

theorem witness_ColoredSquaresPaint : InWindow (onLine 8 []) 0 ∧ InWindow (onLine 103 []) 95 :=
  ⟨witness_InWindow.1, witness_InWindow.2.1⟩

theorem witness_CspAdvanceCycles : ({ still [] with csp := 0x2B }).csp = 0x2B ∧
    (0x28 ≤ (still []).csp ∧ (still []).csp ≤ 0x2B) := by decide

theorem witness_StackEntryGoesWhereItIsRead :
    ({ still [] with use := .cardBackground 19 }).use = .cardBackground 19 ∧
    ({ still [] with use := .squareOverride }).use = .squareOverride ∧
    ((∀ col, (still []).use ≠ .cardBackground col) ∧ (still []).use ≠ .squareOverride) :=
  ⟨rfl, rfl, fun _ => by simp [still], by simp [still]⟩

theorem witness_GraphicRowGoesWhereItIsRead :
    ({ still [] with use := .cardRow 0 1 15 }).use = .cardRow 0 1 15 ∧
    ({ still [] with use := .mobRow true false }).use = .mobRow true false ∧
    ((∀ col fg bg, (still []).use ≠ .cardRow col fg bg) ∧ (∀ to0 to1, (still []).use ≠ .mobRow to0 to1)) :=
  ⟨rfl, rfl, fun _ _ _ => by simp [still], fun _ _ => by simp [still]⟩

theorem witness_MobDecodeBuildsRecord : (onLine 0 []).seq = .rendering 0 := rfl

theorem witness_SpriteLinesOfMob : (onLine 0 []).seq = .rendering 0 ∧ (8 ≤ (onLine 0 []).vd ∧ (onLine 0 []).vd ≤ 15) ∧
    ({ onLine 111 [] with vd := 15 }).seq = .rendering 111 := by decide

/-- Every way to be inactive: x = 0, x = 168, no flag, above the MOB, below it. -/
theorem witness_MobNotActiveHasNoEffect :
    (onLine 50 []).unit.x.toNat = 0 ∧ 167 < ({ mob100 with x := 168 }).x.toNat ∧
    (({ mob100 with visb := false }).visb = false ∧ mob100.intr = false) ∧
    ((49 : Int) + 8 - (onLine 49 []).vd < mob100.y.toNat) ∧
    ((mob100.y.toNat : Int) + mob100.height ≤ 54 + 8 - (onLine 54 []).vd) := by decide

theorem witness_MobEnableTest : (onLine 0 []).unit.enabled = false := by decide

theorem witness_MobFlagsLimitEffects : mob100.intr = false ∧
    (({ mob100 with visb := false, intr := true }).visb = false ∧ ({ mob100 with visb := false, intr := true }).intr = true) ∧
    Mob.blank.enabled = false := by decide

/-- Active on its first and its last line. -/
theorem witness_MobActiveIsComposited :
    let s := fun n => { onLine n [] with unit := mob100 }
    ((s 50).seq = .rendering 50 ∧ (s 53).seq = .rendering 53) ∧
    ((s 50).unit.x.toNat ≠ 0 ∧ (s 50).unit.x.toNat ≤ 167 ∧ ((s 50).unit.visb = true ∨ (s 50).unit.intr = true)) ∧
    ((s 50).unit.y.toNat ≤ (50 : Int) + 8 - (s 50).vd ∧ (50 : Int) + 8 - (s 50).vd < (s 50).unit.y.toNat + (s 50).unit.height) ∧
    ((s 53).unit.y.toNat ≤ (53 : Int) + 8 - (s 53).vd ∧ (53 : Int) + 8 - (s 53).vd < (s 53).unit.y.toNat + (s 53).unit.height) := by
  decide

theorem witness_MobRowsSelectBytes : mob100.ysize = 0 ∧ ({ mob100 with ysize := 3 }).ysize ≠ 0 := by decide

theorem witness_MobPixelCells : mob100.xsize = false ∧ ({ mob100 with xsize := true }).xsize = true := by decide

theorem witness_MobPixelCollidesAndPaints : (0x80#8).getLsbD (7 - 0) = true ∧ (0x80#8).getLsbD (7 - 1) = false := by decide

/-- An active MOB. -/
theorem witness_ColumnClearZeroesItsCells_active : mob100.enabled = true ∧ mob100.onLine 50 = true ∧
    mob100.onLine 53 = true := by decide

/-- The two ends of the default cells, and the columns beside them, with HD = 16. -/
theorem witness_ColumnClearZeroesItsCells :
    (∃ o : Int, ((1 : Fin 2), o) ∈ (still []).params.col167Cells ∧ ((still []).hd : Int) + o = (335 : Nat)) ∧
    (∃ o : Int, ((0 : Fin 2), o) ∈ (still []).params.col167Cells ∧ ((still []).hd : Int) + o = (334 : Nat)) ∧
    ¬ ∃ o : Int, ((0 : Fin 2), o) ∈ (still []).params.col167Cells ∧ ((still []).hd : Int) + o = (333 : Nat) :=
  ⟨⟨319, by decide, by decide⟩, ⟨318, by decide, by decide⟩, by
    rintro ⟨o, hm, ho⟩
    have h : o = 317 := by simp [still] at ho; omega
    subst h
    revert hm
    decide⟩

theorem witness_FinalizeClosedForm : [7, 6, 5, 4, 3, 2, 1, 0].Perm mobsUp ∧ (0 : Fin 8) ≠ 7 ∧ (8 : Nat) ≤ 8 ∧ ((0x17 < 0x18) ∨ 0x20 ≤ 0x17) ∧
    ((0x20 < 0x18) ∨ 0x20 ≤ 0x20) := by decide

theorem witness_CollisionsSymmetricAfterFinalizing :
    let s := { still [(0x18, 0x8080)] with seq := .finalizing }
    s.seq = .finalizing ∧ (0 : Fin 8) ≠ 7 ∧ (8 : Nat) ≤ 8 ∧ ((0x17 < 0x18) ∨ 0x20 ≤ 0x17) ∧ ((0x20 < 0x18) ∨ 0x20 ≤ 0x20) ∧ (15 ≠ (0 : Fin 8).val ∧ (s.mem.read 0x18).getLsbD 15 = true) := by decide

/-- Rows below, between and above the two that line 50 writes. -/
theorem witness_CopyOutWritesTwoRows : (99 ≠ 2 * (50 : Fin 112).val ∧ 99 ≠ 2 * (50 : Fin 112).val + 1) ∧
    (102 ≠ 2 * (50 : Fin 112).val ∧ 102 ≠ 2 * (50 : Fin 112).val + 1) := by decide

theorem witness_rendering : (onLine 0 []).seq = .rendering 0 ∧ (onLine 111 []).seq = .rendering 111 := ⟨rfl, rfl⟩

/-- The invariant, on the first line, on background lines 0 and 95 and on the last line, with a card and a MOB. -/
theorem witness_Inv (n : Fin 112) : (onLine n [(0x00, 0x0364), (0x08, 50), (0x200, 0x3607)]).Inv where
  memWf := (by decide : (still [(0x00, 0x0364), (0x08, 50), (0x200, 0x3607)]).mem.wf = true)
  vdRange := ⟨show 8 ≤ 8 by decide, show 8 ≤ 15 by decide⟩
  hdRange := ⟨show 16 ≤ 16 by decide, show 16 ≤ 30 by decide, show 16 % 2 = 0 by decide⟩
  cspRange := ⟨show 0x28 ≤ 0x28 by decide, show 0x28 ≤ 0x2B by decide⟩
  pal7Canonical := rfl
  buffersClear := ⟨rfl, rfl⟩
  unitBlank := rfl
  useNothing := rfl

theorem witness_EveryFramePixelIsPainted (n : Fin 112) :
    (onLine n [(0x00, 0x0364), (0x08, 50), (0x200, 0x3607)]).Inv ∧
    (onLine n [(0x00, 0x0364), (0x08, 50), (0x200, 0x3607)]).seq = .rendering n := ⟨witness_Inv n, rfl⟩

theorem witness_StepKeepsInv (n : Fin 112) :
    (onLine n [(0x00, 0x0364), (0x08, 50), (0x200, 0x3607)]).Inv ∧
    ∃ t, step (onLine n [(0x00, 0x0364), (0x08, 50), (0x200, 0x3607)]) = .next t := ⟨witness_Inv n, _, rfl⟩

theorem witness_CoreWritesOnlyCollisionRegisters : (onLine 0 [(0x18, 0x8001)]).seq ≠ .idle ∧
    ({ still [] with seq := .finalizing }).seq ≠ .idle ∧ (((0x17 < 0x18) ∨ 0x20 ≤ 0x17) ∧ ((0x20 < 0x18) ∨ 0x20 ≤ 0x20)) ∧
    (10 ≤ 15 ∧ ((onLine 0 [(0x18, 0x8001)]).mem.read 0x18).getLsbD 15 = true) := by decide

/-- The four ways to be off the first sub-rows. -/
theorem witness_StackPointerStillOffFirstSubRows :
    ((onLine 8 []).seq = .rendering 8 ∧ (onLine 8 []).modeq = false) ∧ 7 < ({ onLine 7 [] with modeq := true }).vd ∧
    ({ onLine 104 [] with modeq := true }).vd + 96 ≤ 104 ∧ (9 - ({ onLine 9 [] with modeq := true }).vd) % 8 ≠ 0 := by decide

theorem witness_StackPointerCountsAdvances :
    (InWindow { onLine 8 [] with modeq := true } 0 ∧ 0 = 8 * 0) ∧ (InWindow { onLine 96 [] with modeq := true } 88 ∧ 88 = 8 * 11) ∧
    ({ onLine 96 [] with modeq := true }).modeq = true ∧ 0x28 ≤ (onLine 96 []).csp ∧ (onLine 96 []).csp ≤ 0x2B :=
  ⟨⟨⟨8, rfl, rfl, by decide⟩, rfl⟩, ⟨⟨96, rfl, rfl, by decide⟩, rfl⟩, rfl, by decide, by decide⟩

theorem witness_FrameTakesOneHundredFourteenSteps :
    ({ still [] with inbox := [.renderFrame, .setMode 1] }).seq = .idle ∧
    ({ still [] with inbox := [.renderFrame, .setMode 1] }).inbox = .renderFrame :: [.setMode 1] := ⟨rfl, rfl⟩

/-- Two states that differ only in a collision register. -/
theorem witness_FrameIndependentOfCollisionRegisters :
    (onLine 8 [(0x18, 0x0001)]).SameButCollisions (onLine 8 []) ∧ 0x28 ≤ (onLine 8 [(0x18, 0x0001)]).csp ∧
    (onLine 8 [(0x18, 0x0001)]).csp ≤ 0x2B ∧ (onLine 8 [(0x18, 0x0001)]).seq ≠ .idle ∧
    (onLine 8 [(0x18, 0x0001)]).mem.read 0x18 ≠ (onLine 8 []).mem.read 0x18 := by
  refine ⟨⟨fun a ha => ?_, rfl⟩, by decide, by decide, by decide, by decide⟩
  have h : (0x18 : Nat) ≠ a := by omega
  simp [onLine, still, memOf, Memory.write, Memory.insert, Memory.read, Memory.lookup, Memory.unlisted, h]

theorem witness_still_Inv (l : List HostMove) (m : Nat) :
    ({ still [(0x00, 0x0364), (0x08, 50), (0x18, 0x00FF)] with inbox := l, csp := 0x28 + m % 4 }).Inv where
  memWf := (by decide : (still [(0x00, 0x0364), (0x08, 50), (0x18, 0x00FF)]).mem.wf = true)
  vdRange := ⟨show 8 ≤ 8 by decide, show 8 ≤ 15 by decide⟩
  hdRange := ⟨show 16 ≤ 16 by decide, show 16 ≤ 30 by decide, show 16 % 2 = 0 by decide⟩
  cspRange := ⟨show 0x28 ≤ 0x28 + m % 4 by omega, show 0x28 + m % 4 ≤ 0x2B by omega⟩
  pal7Canonical := rfl
  buffersClear := ⟨rfl, rfl⟩
  unitBlank := rfl
  useNothing := rfl

/-- Two idle states that differ in CSP and in the moves that follow. -/
theorem witness_FrameIsDeterminedBySnapshot :
    let s := { still [(0x00, 0x0364), (0x08, 50), (0x18, 0x00FF)] with inbox := [.renderFrame], csp := 0x28 + 0 % 4 }
    let t := { still [(0x00, 0x0364), (0x08, 50), (0x18, 0x00FF)] with
      inbox := [.renderFrame, .setMode 1], csp := 0x28 + 3 % 4 }
    s.Inv ∧ t.Inv ∧ s.seq = .idle ∧ t.seq = .idle ∧ s.inbox = .renderFrame :: [] ∧ t.inbox = .renderFrame :: [.setMode 1] ∧
    s.mode = t.mode ∧ s.params = t.params ∧ (∀ a : Nat, a < 0x18 ∨ 0x20 ≤ a → s.mem.read a = t.mem.read a) ∧
    s.csp ≠ t.csp :=
  ⟨witness_still_Inv _ 0, witness_still_Inv _ 3, rfl, rfl, rfl, rfl, rfl, rfl, fun _ _ => rfl, by decide⟩

theorem witness_HostMovesInIdle :
    (({ still [] with inbox := [.write 0x200 1] }).seq = .idle ∧
      ({ still [] with inbox := [.write 0x200 1] }).inbox = .write 0x200 1 :: []) ∧
    ({ still [] with inbox := [.setMode 1] }).inbox = .setMode 1 :: [] ∧ (still []).inbox = [] ∧
    (onLine 0 []).seq ≠ .idle := ⟨⟨rfl, rfl⟩, rfl, rfl, by decide⟩

theorem witness_DecodeOfEncodeIsIdentity :
    (let i := Instr.graphicRow 0x39FF 0xFF
     i.wf = true ∧ i ≠ .renderFrame ∧ i.readIn true = true ∧ i.readIn false = true) ∧
    (let i := Instr.btFgbgCard 239 7 63 15 true
     i.wf = true ∧ i ≠ .renderFrame ∧ i.readIn false = true) ∧
    (let i := Instr.btCsSquares 0 7 7 7 7
     i.wf = true ∧ i ≠ .renderFrame ∧ i.readIn true = true) := by decide

theorem witness_EncodeOfDecodeKeepsUsedBits :
    decode true 0x2EF 0xFFFF#16 = .ok (.btCsCardGramFg3 239 7 63 true) ∧
    decode false 0x39FF 0xFFFF#16 = .ok (.graphicRow 0x39FF 0xFF) := by decide

/-- The two sides of every edge of the map. -/
theorem witness_DecodeCoversTheMap :
    (Mapped 0 ∧ Mapped 0x1F ∧ Mapped 0x28 ∧ Mapped 0x2C ∧ Mapped 0x30 ∧ Mapped 0x32 ∧ Mapped 0x200 ∧ Mapped 0x2EF ∧
      Mapped 0x3000 ∧ Mapped 0x39FF) ∧
    (¬ Mapped 0x20 ∧ ¬ Mapped 0x27 ∧ ¬ Mapped 0x2D ∧ ¬ Mapped 0x2F ∧ ¬ Mapped 0x33 ∧ ¬ Mapped 0x1FF ∧ ¬ Mapped 0x2F0 ∧
      ¬ Mapped 0x2FFF ∧ ¬ Mapped 0x3A00) := by
  simp [Mapped]

/-- A word of each sub-mode (V-ENC-10, V-ENC-17, V-ENC-15, V-ENC-12). -/
theorem witness_BacktabWordsDecode : (0x07FB#16).extractLsb' 11 2 = 0#2 ∧ (0x0E00#16).extractLsb' 11 2 = 1#2 ∧
    (0x36D1#16).extractLsb' 11 2 = 2#2 ∧ (0x1807#16).extractLsb' 11 2 = 3#2 := by decide

theorem witness_RegisterWordsDecode : (0x3000 ≤ 0x3000 ∧ 0x3000 < 0x3A00) ∧ (0x3000 ≤ 0x39FF ∧ 0x39FF < 0x3A00) := by decide

end Sys2Proof.Tests
end

section
/-! Scope (00_scope.md): a step runs decoded words. A word answers a next state, a cell runs the word at its address, and
a background line exists exactly in the window; O5 is assembled from these facts. -/

namespace Sys2Proof.Machine

open Sys2Proof.Claims

/-! ## A word answers a next state -/

/-- Only the meanings that act on the line being rendered ask for it; with a line or without, a word completes
(R106, R107, R260). -/
theorem exec_word_next {i : Instr} (h : i ≠ .renderFrame) (s : State) : ∃ t, exec i s = .next t := by
  cases i with
  | btFgbgCard | btCsCardGrom | btCsCardGram | btCsCardGramFg3 | btCsSquares | borderColor | mobColl =>
    simp only [exec, execBtFgbgCard, execBtCsCardGrom, execBtCsCardGram, execBtCsCardGramFg3, execBtCsSquares,
      execBorderColor, execMobColl]
    split <;> exact ⟨_, rfl⟩
  | mobX | mobY | mobA | cstkEntry | hdelay | vdelay | extend | graphicRow => exact ⟨_, rfl⟩
  | renderFrame => exact absurd rfl h

theorem exec_word_eq_after {i : Instr} (h : i ≠ .renderFrame) (s : State) : exec i s = .next (after i s) := by
  obtain ⟨t, ht⟩ := exec_word_next h s
  rw [ht, after_next ht]

/-! ## Decoding at a cell's address -/

/-- No cell holds the host command (R104). -/
theorem decodeCell_ne_renderFrame (m : Bool) (c : Cell) (w : Word) : decodeCell m c w ≠ .renderFrame := by
  cases c with
  | backtab n =>
    cases m with
    | false => exact Instr.noConfusion
    | true =>
      show decodeCs n w ≠ .renderFrame
      unfold decodeCs
      split_ifs <;> exact Instr.noConfusion
  | mobX | mobY | mobA | mobColl | cstk | border | hdelay | vdelay | extend | graphic => exact Instr.noConfusion

/-- At its own address a cell's word decodes, and to what the cell decodes it to. -/
theorem decode_cell_addr (m : Bool) (c : Cell) (w : Word) : decode m c.addr w = .ok (decodeCell m c w) := by
  rw [decode, Cell.ofAddr_addr]

/-- The decoded word of a cell is the one that running the cell executes (R90). -/
theorem exec_decoded_eq_runCell {s : State} {c : Cell} {i : Instr}
    (h : decode s.modeq c.addr (s.mem.read c.addr) = .ok i) : exec i s = .next (runCell s c) := by
  rw [decode_cell_addr] at h
  cases h
  exact exec_word_eq_after (decodeCell_ne_renderFrame _ _ _) s

/-! ## Operand words -/

/-- A graphic row fetched for a use is the decoded word at that address, executed with that use (R103, R152). -/
theorem exec_decoded_eq_fetchRow {s : State} {o : Fin 0xA00} {i : Instr} (u : RowUse)
    (h : decode s.modeq (0x3000 + o.val) (s.mem.read (0x3000 + o.val)) = .ok i) :
    exec i { s with use := u } = .next (fetchRow (0x3000 + o.val) u s) := by
  cases (decode_cell_addr s.modeq (.graphic o) _).symm.trans h
  rfl

/-- The stack entry fetched at CSP is the decoded word at CSP, executed with that use (R99, R132, R161). -/
theorem exec_decoded_eq_fetchStack {s : State} {i : Instr} (u : RowUse) (h0 : 0x28 ≤ s.csp) (h1 : s.csp ≤ 0x2B)
    (h : decode s.modeq s.csp (s.mem.read s.csp) = .ok i) :
    exec i { s with use := u } = .next (fetchStack u s) := by
  obtain ⟨k, hk⟩ : ∃ k : Fin 4, (Cell.cstk k).addr = s.csp :=
    ⟨⟨s.csp - 0x28, by omega⟩, by simp only [Cell.addr]; omega⟩
  have hd := decode_cell_addr s.modeq (.cstk k) (s.mem.read s.csp)
  rw [hk] at hd
  cases hd.symm.trans h
  rfl

/-! ## The background -/

/-- The state has a background line exactly inside the window (R243, R244). -/
theorem bgLine_eq_some_iff {s : State} {bl : Nat} : s.bgLine = some bl ↔ InWindow s bl := by
  constructor
  · intro h
    cases hs : s.seq with
    | rendering n =>
      simp only [State.bgLine, State.line, hs, Option.ite_none_right_eq_some, Option.some.injEq] at h
      exact ⟨n, hs, by omega, by omega⟩
    | idle => simp [State.bgLine, State.line, hs] at h
    | finalizing => simp [State.bgLine, State.line, hs] at h
  · rintro ⟨n, hs, hn, hb⟩
    exact bgLine_eq_some hs hn hb

/-- In the window the background runs the cells of its card row, CSP reset first where R160 says so. -/
theorem background_inWindow {s : State} {bl : Nat} (h : InWindow s bl) :
    background s =
      (backgroundCells bl).foldl runCell (if s.modeq = true ∧ bl = 0 then { s with csp := 0x28 } else s) := by
  rw [background, bgLine_eq_some_iff.mpr h]
  simp only [Bool.and_eq_true, decide_eq_true_eq, resetCsp]

theorem background_outside {s : State} (h : ∀ bl, ¬ InWindow s bl) : background s = s := by
  have hb : s.bgLine = none := Option.eq_none_iff_forall_ne_some.mpr fun bl hbl => h bl (bgLine_eq_some_iff.mp hbl)
  rw [background, hb]

/-- The cells of card row `r`, by R110's formula. -/
theorem backgroundCells_cardRow {bl : Nat} {r : Fin 12} (h : r.val = bl / 8) :
    backgroundCells bl = (List.finRange 20).map fun c => Cell.backtab ⟨20 * r.val + c.val, by omega⟩ := by
  have hr : (⟨bl / 8 % 12, Nat.mod_lt _ (by decide)⟩ : Fin 12) = r := Fin.ext (by simp only; omega)
  rw [backgroundCells, hr]
  rfl

/-- Settles O5: each clause is one of the facts above; the order of a LINE, the host's command and LATCH are the
definitions themselves. -/
theorem stepRunsDecodedInstruction : Obligations.StepRunsDecodedInstruction := by
  refine ⟨fun _ _ _ => exec_decoded_eq_runCell, fun s n hs => ?_, fun s bl r hw hr => ?_, fun _ => background_outside,
    fun s rest hs hi => ?_, fun _ _ _ u => exec_decoded_eq_fetchRow u, fun _ _ u => exec_decoded_eq_fetchStack u,
    fun _ => rfl⟩
  · exact step_line hs
  · rw [background_inWindow hw, backgroundCells_cardRow hr]
  · rw [step_idle hs, hostTurn, hi]

end Sys2Proof.Machine
end

section
/-! State (10_state.md), reset and the address map: the values right after reset, and which addresses decode. -/

namespace Sys2Proof.Machine

open Sys2Proof.Claims

/-! ## Reset (R35) -/

theorem getElem_get_fill {α : Type} (v : α) (k : Fin 2) (x : Nat) (hx : x < 352) :
    ((Copies.fill v).get k)[x] = v := by
  simp only [Copies.get_fill, Vector.getElem_replicate]

/-- An entry n ≥ 1 of the table is the open parameter's (R130). -/
theorem paletteColor_of_succ (p : Params) {n : PalIdx} (k : Fin 15) (h : n.toNat = k.val + 1) :
    paletteColor p n = p.palette1to15[k] := by
  have hn : n ≠ 0 := by
    rintro rfl
    exact absurd h (by simp)
  rw [paletteColor, if_neg hn, h]
  simp [List.getD]

theorem reset_pal7 : State.reset.pal7 = paletteColor State.reset.params 7 := by
  rw [paletteColor_of_succ _ 6 rfl]
  exact (vecTabulate_getElem 15 Config.paletteEntry 6 (by decide)).symm

/-- Settles O49. Slot 7 takes its value from the table; every other field is a literal. -/
theorem resetHasInv : Obligations.ResetHasInv where
  memWf := rfl
  vdRange := ⟨by decide, by decide⟩
  hdRange := ⟨by decide, by decide, by decide⟩
  cspRange := ⟨by decide, by decide⟩
  pal7Canonical := reset_pal7
  buffersClear := ⟨rfl, rfl⟩
  unitBlank := rfl
  useNothing := rfl

/-- Settles O50: slot 7 reads the table, the working buffers are filled with 0, and every other field is a literal. -/
theorem resetValues : Obligations.ResetValues :=
  ⟨rfl, rfl, rfl, rfl, rfl, rfl, rfl, reset_pal7, fun k x hx => ⟨getElem_get_fill 0 k x hx, getElem_get_fill 0 k x hx⟩⟩

/-! ## The address map (R32, R61) -/

/-- No cell stands outside the map (R61). -/
theorem ofAddr_none {a : Nat} (h : ¬ Mapped a) : Cell.ofAddr a = none := by
  unfold Mapped at h
  unfold Cell.ofAddr
  simp (disch := omega) only [dif_neg, if_neg]

/-- Every mapped address is some cell's: the map range by range. -/
theorem exists_cell_of_mapped {a : Nat} (h : Mapped a) : ∃ c : Cell, c.addr = a := by
  have : a < 0x08 ∨ (0x08 ≤ a ∧ a < 0x10) ∨ (0x10 ≤ a ∧ a < 0x18) ∨ (0x18 ≤ a ∧ a < 0x20) ∨ (0x28 ≤ a ∧ a < 0x2C) ∨
    a = 0x2C ∨ a = 0x30 ∨ a = 0x31 ∨ a = 0x32 ∨ (0x200 ≤ a ∧ a < 0x2F0) ∨ (0x3000 ≤ a ∧ a < 0x3A00) := by
    unfold Mapped at h; omega
  rcases this with h | ⟨h0, h⟩ | ⟨h0, h⟩ | ⟨h0, h⟩ | ⟨h0, h⟩ | rfl | rfl | rfl | rfl | ⟨h0, h⟩ | ⟨h0, h⟩
  · exact ⟨.mobX ⟨a, h⟩, Nat.zero_add a⟩
  · exact ⟨.mobY ⟨a - 0x08, by omega⟩, Nat.add_sub_cancel' h0⟩
  · exact ⟨.mobA ⟨a - 0x10, by omega⟩, Nat.add_sub_cancel' h0⟩
  · exact ⟨.mobColl ⟨a - 0x18, by omega⟩, Nat.add_sub_cancel' h0⟩
  · exact ⟨.cstk ⟨a - 0x28, by omega⟩, Nat.add_sub_cancel' h0⟩
  · exact ⟨.border, rfl⟩
  · exact ⟨.hdelay, rfl⟩
  · exact ⟨.vdelay, rfl⟩
  · exact ⟨.extend, rfl⟩
  · exact ⟨.backtab ⟨a - 0x200, by omega⟩, Nat.add_sub_cancel' h0⟩
  · exact ⟨.graphic ⟨a - 0x3000, by omega⟩, Nat.add_sub_cancel' h0⟩

/-- Settles O53: a mapped address is a cell's own, where every word decodes; elsewhere no cell stands. -/
theorem decodeCoversTheMap : Obligations.DecodeCoversTheMap := by
  intro modeq a w
  constructor
  · intro h
    obtain ⟨c, rfl⟩ := exists_cell_of_mapped h
    exact ⟨_, decode_cell_addr modeq c w⟩
  · intro h
    rw [decode, ofAddr_none h]

/-! ## The MOB record (R29, R181) -/

theorem spriteLine_rendering {s : State} {n : Fin 112} (h : s.seq = .rendering n) :
    s.spriteLine = some ((n.val : Int) + 8 - (s.vd : Int)) := by
  simp only [State.spriteLine, State.line, h]

/-- Running a collision register on a line runs the loop body of SPRITES on the record and drops the record. -/
theorem runCell_mobColl {s : State} {n : Fin 112} (h : s.seq = .rendering n) (i : Fin 8) :
    runCell s (.mobColl i) =
      { mobPass i (collReg (s.mem.read (collAddr i)) (Layout.mobCMob.get (s.mem.read (collAddr i)))
          (Layout.mobCBg.flag (s.mem.read (collAddr i))) (Layout.mobCBorder.flag (s.mem.read (collAddr i))))
          ((n.val : Int) + 8 - (s.vd : Int)) s with unit := Mob.blank } := by
  apply after_next
  show execMobColl _ _ _ _ s = _
  rw [execMobColl, spriteLine_rendering h]
  rfl

/-- Settles O21: the three words read the record's fields from memory, which none of them writes; the collision
register drops the record. -/
theorem mobDecodeBuildsRecord : Obligations.MobDecodeBuildsRecord := by
  refine ⟨fun i s => rfl, fun i s n h => ?_⟩
  rw [runCell_mobColl h]

end Sys2Proof.Machine
end

section
/-! State (10_state.md), what a step writes: a LINE writes the working buffers, FRAME and the collision registers, by ORs;
FINALIZE clears self bits and mirrors the others. -/

namespace Sys2Proof.Machine

/-! ## The collision register of one MOB (R33, R191) -/

/-- From `v` to `w` a collision register is only ORed into, and its bits 15:10 are kept (R33). -/
structure RegGrows (v w : Word) : Prop where
  kept : ∀ j : Nat, 10 ≤ j → w.getLsbD j = v.getLsbD j
  mono : ∀ j : Nat, v.getLsbD j = true → w.getLsbD j = true

namespace RegGrows

theorem refl (v : Word) : RegGrows v v := ⟨fun _ _ => rfl, fun _ h => h⟩

theorem trans {u v w : Word} (h : RegGrows u v) (k : RegGrows v w) : RegGrows u w :=
  ⟨fun j hj => (k.kept j hj).trans (h.kept j hj), fun j hj => k.mono j (h.mono j hj)⟩

end RegGrows

theorem mobPixel_reg_grows (i : Fin 8) (u : Mob) (color : Color) (hd : Nat) (o : Vector Int 4) (b : Byte) (cv : Canvas)
    (p : Nat) : RegGrows cv.reg (mobPixel i u color hd o b cv p).reg := by
  refine ⟨fun j hj => mobPixel_reg_high i u color hd o b cv p hj, fun j hj => ?_⟩
  unfold mobPixel
  split
  · simp only [mobPaint, mobCollide]
    split
    · simp only [getLsbD_accumulate, hj, Bool.true_or]
    · exact hj
  · exact hj

theorem mobPixels_reg_grows (i : Fin 8) (u : Mob) (color : Color) (hd : Nat) (o : Vector Int 4) (b : Byte)
    (l : List Nat) (cv : Canvas) : RegGrows cv.reg (l.foldl (mobPixel i u color hd o b) cv).reg := by
  induction l generalizing cv with
  | nil => exact .refl cv.reg
  | cons p l ih => exact (mobPixel_reg_grows i u color hd o b cv p).trans (ih _)

theorem mobCopy_reg_grows (i : Fin 8) (s : State) (k : Fin 2) (r : Word) (w : Bool) :
    RegGrows r (mobCopy i s k r w).reg :=
  mobPixels_reg_grows i _ _ _ _ _ (List.range 8) ⟨r, w, s.cbuf.get k, s.bbuf.get k⟩

/-- The loop body of SPRITES writes at most the one register, which grows from `reg`, the working buffers, and the two
fields of the model's own. -/
theorem mobPass_cases (i : Fin 8) (reg : Word) (sl : Int) (s : State) :
    let t := mobPass i reg sl s
    t = { s with mem := t.mem, cbuf := t.cbuf, bbuf := t.bbuf, unit := t.unit, use := t.use } ∧
      (t.mem = s.mem ∨ ∃ v, RegGrows reg v ∧ t.mem = s.mem.write (collAddr i) v) := by
  unfold mobPass
  split
  · rw [fetchMobRows_frame]
    refine ⟨rfl, ?_⟩
    simp only [mobComposite]
    split
    · exact .inr ⟨_, (mobCopy_reg_grows _ _ _ _ _).trans (mobCopy_reg_grows _ _ _ _ _), rfl⟩
    · exact .inl rfl
  · exact ⟨rfl, .inl rfl⟩

/-- The decoded fields of a register, put back over its bits 15:10, are the register (R98). -/
theorem collReg_decoded (w : Word) :
    collReg w (Layout.mobCMob.get w) (Layout.mobCBg.flag w) (Layout.mobCBorder.flag w) = w := by
  ext j hj
  by_cases h : 10 ≤ j
  · exact collReg_high _ _ _ _ h
  · have : j = 0 ∨ j = 1 ∨ j = 2 ∨ j = 3 ∨ j = 4 ∨ j = 5 ∨ j = 6 ∨ j = 7 ∨ j = 8 ∨ j = 9 := by omega
    rcases this with rfl | rfl | rfl | rfl | rfl | rfl | rfl | rfl | rfl | rfl <;>
      simp [collReg, Field.putFlag, Field.put, Field.get, Field.flag, Layout.mobCMob, Layout.mobCBg, Layout.mobCBorder]


/-! ## The word of a collision register -/

/-- MOB_COLL does nothing outside RENDERING; there it runs the loop body and drops the record. Either way it writes at
most its own register, which grows from the decoded fields over the kept bits. -/
theorem execMobColl_cases (i : Fin 8) (mob : BitVec 8) (bg border : Bool) (s : State) :
    ∃ t, exec (.mobColl i mob bg border) s = .next t ∧
      t = { s with mem := t.mem, cbuf := t.cbuf, bbuf := t.bbuf, unit := t.unit, use := t.use } ∧
      (t.mem = s.mem ∨ ∃ v, RegGrows (collReg (s.mem.read (collAddr i)) mob bg border) v ∧
        t.mem = s.mem.write (collAddr i) v) := by
  show ∃ t, execMobColl i mob bg border s = .next t ∧ _
  unfold execMobColl
  split
  · next sl _ =>
    obtain ⟨heq, hmem⟩ := mobPass_cases i (collReg (s.mem.read (collAddr i)) mob bg border) sl s
    exact ⟨_, rfl, by rw [heq], hmem⟩
  · exact ⟨s, rfl, rfl, .inl rfl⟩

/-- Settles O27: the one cell written is the register's, and it grows from bits 15:10 as they stood. -/
theorem mobCollisionFrame : Obligations.MobCollisionFrame := by
  intro i mob bg border s
  obtain ⟨t, ht, heq, hmem⟩ := execMobColl_cases i mob bg border s
  refine ⟨t, ht, heq, ?_⟩
  obtain hmem | ⟨v, hv, hmem⟩ := hmem
  · exact ⟨fun a _ => by rw [hmem], fun j _ => by rw [hmem]⟩
  · rw [hmem]
    refine ⟨fun a ha => read_write_other _ ha v, fun j hj => ?_⟩
    show ((s.mem.write (collAddr i) v).read (collAddr i)).getLsbD j = (s.mem.read (collAddr i)).getLsbD j
    rw [read_write_same, hv.kept j hj, collReg_high _ _ _ _ hj]

end Sys2Proof.Machine
end

section
/-! State (10_state.md), the words of a LINE by what they may write: border and BACKTAB words paint, MOB words build and
composite the record. Both kinds leave the machine ready for the next word. -/

namespace Sys2Proof.Machine

open Sys2Proof.Claims

/-! ## Between two words -/

/-- What holds between two words of a LINE: CSP in range (R22), PAL7 canonical (R134), no word awaited. -/
structure State.Ready (s : State) : Prop where
  csp  : 0x28 ≤ s.csp ∧ s.csp ≤ 0x2B
  pal7 : s.pal7 = paletteColor s.params 7
  use  : s.use = .nothing

/-- Readiness looks at four fields only. -/
theorem State.Ready.congr {s t : State} (h : s.Ready) (hcsp : t.csp = s.csp) (hpal : t.pal7 = s.pal7)
    (hpar : t.params = s.params) (huse : t.use = s.use) : t.Ready where
  csp := by rw [hcsp]; exact h.csp
  pal7 := by rw [hpal, hpar]; exact h.pal7
  use := by rw [huse]; exact h.use

theorem State.Inv.ready {s : State} (h : s.Inv) : s.Ready := ⟨h.cspRange, h.pal7Canonical, h.useNothing⟩

/-- One advance lands in the color stack, from anywhere (R164). -/
theorem nextCsp_range (csp : Nat) : 0x28 ≤ nextCsp csp ∧ nextCsp csp ≤ 0x2B := by
  unfold nextCsp
  omega

/-! ## BACKTAB words -/

/-- The card column whose cache entries a word uses: that of an F_BT_CS word (R161, R162). -/
def stackColumn (i : Instr) : Option (Fin 20) := (csOperands i).map fun o => backtabCol o.1

/-- Outside the background window a BACKTAB word has no effect (R244). -/
theorem after_backtab_outside {i : Instr} (h : isBacktab i = true) {s : State} (hs : s.bgLine = none) :
    after i s = s := by
  cases i with
  | btFgbgCard | btCsCardGrom | btCsCardGram | btCsCardGramFg3 | btCsSquares =>
    apply after_next
    simp only [exec, execBtFgbgCard, execBtCsCardGrom, execBtCsCardGram, execBtCsCardGramFg3, execBtCsSquares, hs]
  | mobX | mobY | mobA | mobColl | cstkEntry | borderColor | hdelay | vdelay | extend | graphicRow | renderFrame =>
    exact absurd h (by simp [isBacktab])

/-- Inside the window a BACKTAB word is one of the three loop bodies, with operands of its own: a card of FG/BG mode
(R150), a card of color-stack mode (R161, R162), or colored squares (R163). -/
theorem after_backtab_cases {i : Instr} (h : isBacktab i = true) :
    (stackColumn i = none ∧ ∃ col fg card bg gram, ∀ s bl, s.bgLine = some bl →
      after i s = fgbgCard col fg card bg gram (bl % 8) s) ∨
    (∃ col fg gram card adv, stackColumn i = some col ∧ ∀ s bl, s.bgLine = some bl →
      after i s = csCard col fg gram card adv (bl % 8) s) ∨
    (stackColumn i = none ∧ ∃ col c0 c1 c2 c3, ∀ s bl, s.bgLine = some bl →
      after i s = csqCard col c0 c1 c2 c3 (bl % 8) s) := by
  cases i with
  | btFgbgCard n fg card bg gram =>
    exact .inl ⟨rfl, backtabCol n, fg, card, bg, gram, fun s bl hs => by rw [after, exec, execBtFgbgCard, hs]⟩
  | btCsCardGrom n fg card adv =>
    exact .inr (.inl ⟨backtabCol n, fg.setWidth 4, false, card.toNat, adv, rfl,
      fun s bl hs => by rw [after, exec, execBtCsCardGrom, hs]⟩)
  | btCsCardGram n fg card adv =>
    exact .inr (.inl ⟨backtabCol n, fg.setWidth 4, true, card.toNat, adv, rfl,
      fun s bl hs => by rw [after, exec, execBtCsCardGram, hs]⟩)
  | btCsCardGramFg3 n fg card adv =>
    exact .inr (.inl ⟨backtabCol n, 1#1 ++ fg, true, card.toNat, adv, rfl,
      fun s bl hs => by rw [after, exec, execBtCsCardGramFg3, hs]⟩)
  | btCsSquares n c0 c1 c2 c3 =>
    exact .inr (.inr ⟨rfl, backtabCol n, c0, c1, c2, c3, fun s bl hs => by rw [after, exec, execBtCsSquares, hs]⟩)
  | mobX | mobY | mobA | mobColl | cstkEntry | borderColor | hdelay | vdelay | extend | graphicRow | renderFrame =>
    exact absurd h (by simp [isBacktab])

/-! ## Words that paint -/

/-- What the border color and a BACKTAB word may write: CSP, the cache, the working buffers, PAL7 and `use`; and they
keep readiness. -/
structure PaintFrame (s t : State) : Prop where
  same  : t = { s with csp := t.csp, cacheFg := t.cacheFg, cacheBg := t.cacheBg, pal7 := t.pal7, cbuf := t.cbuf,
                       bbuf := t.bbuf, use := t.use }
  ready : s.Ready → t.Ready

namespace PaintFrame

theorem refl (s : State) : PaintFrame s s := ⟨rfl, id⟩

theorem trans {s t u : State} (h : PaintFrame s t) (k : PaintFrame t u) : PaintFrame s u where
  same := by rw [k.same, h.same]
  ready hs := k.ready (h.ready hs)

theorem mem {s t : State} (h : PaintFrame s t) : t.mem = s.mem := by rw [h.same]

theorem unit {s t : State} (h : PaintFrame s t) : t.unit = s.unit := by rw [h.same]

end PaintFrame

theorem paintBorder_paintFrame (line : Int) (c : PalIdx) (s : State) : PaintFrame s (paintBorder line c s) where
  same := by rw [paintBorder_frame]
  ready hs := by rw [paintBorder_frame]; exact hs.congr rfl rfl rfl rfl

theorem fgbgCard_paintFrame (col : Fin 20) (fg : BitVec 3) (card : BitVec 6) (bg : BitVec 4) (gram : Bool) (sub : Nat)
    (s : State) : PaintFrame s (fgbgCard col fg card bg gram sub s) where
  same := rfl
  ready hs := ⟨hs.csp, hs.pal7, rfl⟩

theorem cacheCard_paintFrame (col : Fin 20) (fg : PalIdx) (adv : Bool) (s : State) :
    PaintFrame s (cacheCard col fg adv s) where
  same := by rw [cacheCard_eq]
  ready hs := by
    rw [cacheCard_eq]
    refine ⟨?_, hs.pal7, rfl⟩
    show 0x28 ≤ (if adv then nextCsp s.csp else s.csp) ∧ (if adv then nextCsp s.csp else s.csp) ≤ 0x2B
    split
    · exact nextCsp_range s.csp
    · exact hs.csp

theorem csCard_paintFrame (col : Fin 20) (fg : PalIdx) (gram : Bool) (card : Nat) (adv : Bool) (sub : Nat) (s : State) :
    PaintFrame s (csCard col fg gram card adv sub s) := by
  have paint (u : State) (fg bg : PalIdx) (a : Nat) : PaintFrame u (fetchRow a (.cardRow col fg bg) u) :=
    ⟨rfl, fun hu => ⟨hu.csp, hu.pal7, rfl⟩⟩
  simp only [csCard]
  split
  · exact (cacheCard_paintFrame col fg adv s).trans (paint _ _ _ _)
  · exact paint _ _ _ _

/-- Colored squares override slot 7 and restore it from the table (R132, R133); CSP and the cache are only read. -/
theorem csqCard_eq (col : Fin 20) (c0 c1 c2 c3 : BitVec 3) (sub : Nat) (s : State) :
    csqCard col c0 c1 c2 c3 sub s =
      { s with
        pal7 := paletteColor s.params 7
        cbuf := (csqCard col c0 c1 c2 c3 sub s).cbuf
        bbuf := (csqCard col c0 c1 c2 c3 sub s).bbuf
        use := .nothing } := rfl

theorem csqCard_paintFrame (col : Fin 20) (c0 c1 c2 c3 : BitVec 3) (sub : Nat) (s : State) :
    PaintFrame s (csqCard col c0 c1 c2 c3 sub s) := by
  rw [csqCard_eq]
  exact ⟨rfl, fun hs => ⟨hs.csp, rfl, rfl⟩⟩

theorem after_backtab_paintFrame {i : Instr} (h : isBacktab i = true) (s : State) : PaintFrame s (after i s) := by
  cases hs : s.bgLine with
  | none => rw [after_backtab_outside h hs]; exact .refl s
  | some bl =>
    obtain ⟨-, col, fg, card, bg, gram, hi⟩ | ⟨col, fg, gram, card, adv, -, hi⟩ | ⟨-, col, c0, c1, c2, c3, hi⟩ :=
      after_backtab_cases h
    · rw [hi s bl hs]; exact fgbgCard_paintFrame _ _ _ _ _ _ s
    · rw [hi s bl hs]; exact csCard_paintFrame _ _ _ _ _ _ s
    · rw [hi s bl hs]; exact csqCard_paintFrame _ _ _ _ _ _ s

/-- A BACKTAB cell holds a BACKTAB word, in either mode. -/
theorem isBacktab_decodeCell (m : Bool) (n : Fin 240) (w : Word) : isBacktab (decodeCell m (.backtab n) w) = true := by
  cases m with
  | false => rfl
  | true =>
    show isBacktab (decodeCs n w) = true
    unfold decodeCs
    split_ifs <;> rfl

theorem runCell_backtab_paintFrame (n : Fin 240) (s : State) : PaintFrame s (runCell s (.backtab n)) :=
  after_backtab_paintFrame (isBacktab_decodeCell _ _ _) s

theorem border_paintFrame (s : State) : PaintFrame s (border s) := by
  show PaintFrame s (after (.borderColor _) s)
  simp only [after, exec, execBorderColor]
  cases s.line with
  | none => exact .refl s
  | some n => exact paintBorder_paintFrame _ _ s

theorem resetCsp_paintFrame (s : State) : PaintFrame s (resetCsp s) :=
  ⟨rfl, fun hs => ⟨⟨le_refl 0x28, show 0x28 ≤ 0x2B by decide⟩, hs.pal7, hs.use⟩⟩

/-- Running BACKTAB cells one after another only paints: the induction, once. -/
theorem runBacktab_paintFrame (l : List (Fin 240)) (s : State) :
    PaintFrame s ((l.map Cell.backtab).foldl runCell s) := by
  induction l generalizing s with
  | nil => exact .refl s
  | cons n l ih => exact (runCell_backtab_paintFrame n s).trans (ih _)

/-- The BACKTAB cells of the card row of background line `bl`, by their numbers (R110). -/
def backgroundRow (bl : Nat) : List (Fin 240) :=
  (List.finRange 20).map (backtabCell ⟨(bl / 8) % 12, Nat.mod_lt _ (by decide)⟩)

theorem backgroundCells_eq (bl : Nat) : backgroundCells bl = (backgroundRow bl).map Cell.backtab := by
  rw [backgroundCells, backgroundRow, List.map_map]
  rfl

theorem background_paintFrame (s : State) : PaintFrame s (background s) := by
  unfold background
  split
  · rw [backgroundCells_eq]
    dsimp only
    split
    · exact (resetCsp_paintFrame s).trans (runBacktab_paintFrame _ _)
    · exact runBacktab_paintFrame _ s
  · exact .refl s

/-! ## Words of the MOBs -/

/-- What the four words of a MOB may write: memory, the working buffers, the record and `use`; and they keep `use`
empty. -/
structure MobFrame (s t : State) : Prop where
  same : t = { s with mem := t.mem, cbuf := t.cbuf, bbuf := t.bbuf, unit := t.unit, use := t.use }
  use  : s.use = .nothing → t.use = .nothing

namespace MobFrame

theorem refl (s : State) : MobFrame s s := ⟨rfl, id⟩

theorem trans {s t u : State} (h : MobFrame s t) (k : MobFrame t u) : MobFrame s u where
  same := by rw [k.same, h.same]
  use hs := k.use (h.use hs)

theorem ready {s t : State} (h : MobFrame s t) (hs : s.Ready) : t.Ready :=
  hs.congr (by rw [h.same]) (by rw [h.same]) (by rw [h.same]) (by rw [h.use hs.use, hs.use])

end MobFrame

theorem mobPass_use (i : Fin 8) (reg : Word) (sl : Int) {s : State} (h : s.use = .nothing) :
    (mobPass i reg sl s).use = .nothing := by
  unfold mobPass
  split
  · rw [fetchMobRows_frame]; rfl
  · exact h

theorem after_mobColl_mobFrame (i : Fin 8) (mob : BitVec 8) (bg border : Bool) (s : State) :
    MobFrame s (after (.mobColl i mob bg border) s) := by
  simp only [after, exec, execMobColl]
  cases s.spriteLine with
  | none => exact .refl s
  | some sl =>
    refine ⟨?_, fun hs => mobPass_use i _ sl hs⟩
    dsimp only
    rw [(mobPass_cases i _ sl s).1]

/-- A cell of MOB i (R181, R191). -/
theorem runCell_mob_mobFrame {i : Fin 8} {c : Cell} (h : c ∈ mobCells i) (s : State) : MobFrame s (runCell s c) := by
  simp only [mobCells, List.mem_cons, List.not_mem_nil, or_false] at h
  obtain rfl | rfl | rfl | rfl := h
  · exact ⟨rfl, id⟩
  · exact ⟨rfl, id⟩
  · exact ⟨rfl, id⟩
  · exact after_mobColl_mobFrame i _ _ _ s

/-- Running MOB cells one after another keeps what one of them keeps: the induction, once. -/
theorem runMobs_mobFrame (l : List Cell) (h : ∀ c ∈ l, ∃ i, c ∈ mobCells i) (s : State) :
    MobFrame s (l.foldl runCell s) := by
  induction l generalizing s with
  | nil => exact .refl s
  | cons c l ih =>
    obtain ⟨i, hi⟩ := h c List.mem_cons_self
    exact (runCell_mob_mobFrame hi s).trans (ih (fun d hd => h d (List.mem_cons_of_mem _ hd)) _)

/-- Every cell that SPRITES runs is one MOB's (R180). -/
theorem spriteCells_mob (c : Cell) (h : c ∈ mobsDown.flatMap mobCells) : ∃ i, c ∈ mobCells i := by
  obtain ⟨i, -, hi⟩ := List.mem_flatMap.mp h
  exact ⟨i, hi⟩

theorem sprites_mobFrame (s : State) : MobFrame s (sprites s) := runMobs_mobFrame _ spriteCells_mob s

end Sys2Proof.Machine
end

section
/-! State (10_state.md), a whole LINE and FINALIZE: the snapshot a LINE keeps, the registers it grows, the bits FINALIZE
keeps, and the invariant between operations of the sequencer. -/

namespace Sys2Proof.Machine

/-! ## A LINE up to COPY_OUT (R243) -/

/-- LINE's first four steps: what COPY_OUT then reads. -/
def renderedLine (s : State) : State := border (sprites (background (border s)))

theorem lineStep_eq (n : Fin 112) (s : State) :
    lineStep n s = clearBuffers (copyOut n.val (renderedLine s)) := rfl

theorem border_lineFrame (s : State) : LineFrame s (border s) := runCell_lineFrame s .border rfl

theorem background_lineFrame (s : State) : LineFrame s (background s) := by
  have cells (bl : Nat) (u : State) : LineFrame u ((backgroundCells bl).foldl runCell u) := by
    refine runCells_lineFrame _ (fun c hc => ?_) u
    obtain ⟨k, -, rfl⟩ := List.mem_map.mp hc
    rfl
  unfold background
  split
  · dsimp only
    split
    · exact (LineFrame.of_same rfl : LineFrame s (resetCsp s)).trans (cells _ _)
    · exact cells _ s
  · exact .refl s

theorem lineCell_of_mem_mobCells {i : Fin 8} {c : Cell} (h : c ∈ mobCells i) : lineCell c = true := by
  simp only [mobCells, List.mem_cons, List.not_mem_nil, or_false] at h
  obtain rfl | rfl | rfl | rfl := h <;> rfl

theorem sprites_lineFrame (s : State) : LineFrame s (sprites s) := by
  refine runCells_lineFrame _ (fun c hc => ?_) s
  obtain ⟨i, hi⟩ := spriteCells_mob c hc
  exact lineCell_of_mem_mobCells hi

theorem renderedLine_lineFrame (s : State) : LineFrame s (renderedLine s) :=
  (((border_lineFrame s).trans (background_lineFrame _)).trans (sprites_lineFrame _)).trans (border_lineFrame _)

theorem lineStep_vd (n : Fin 112) (s : State) : (lineStep n s).vd = s.vd := by
  rw [lineStep_eq, clearBuffers_vd, copyOut_vd, (renderedLine_lineFrame s).vd]

theorem lineStep_modeq (n : Fin 112) (s : State) : (lineStep n s).modeq = s.modeq := by
  rw [lineStep_eq, clearBuffers_modeq, copyOut_modeq, (renderedLine_lineFrame s).modeq]

theorem lineStep_cells (n : Fin 112) (s : State) (a : Nat) (ha : a < 0x18 ∨ 0x20 ≤ a) :
    (lineStep n s).mem.read a = s.mem.read a := by
  rw [lineStep_eq, clearBuffers_mem, copyOut_mem, (renderedLine_lineFrame s).cells a ha]

theorem renderedLine_ready {s : State} (h : s.Ready) : (renderedLine s).Ready :=
  (border_paintFrame _).ready ((sprites_mobFrame _).ready
    ((background_paintFrame _).ready ((border_paintFrame s).ready h)))

/-- The last word SPRITES runs is MOB 0's collision register, which drops the record (R29, R180). -/
theorem sprites_unit {s : State} {n : Fin 112} (h : s.seq = .rendering n) : (sprites s).unit = Mob.blank := by
  have split : mobsDown.flatMap mobCells = (mobsDown.flatMap mobCells).dropLast ++ [Cell.mobColl 0] := rfl
  have before := runCells_lineFrame (mobsDown.flatMap mobCells).dropLast
    (fun c hc => (spriteCells_mob c (List.mem_of_mem_dropLast hc)).elim fun _ => lineCell_of_mem_mobCells) s
  rw [sprites, split, List.foldl_append, List.foldl_cons, List.foldl_nil, runCell_mobColl (before.seq.trans h)]

theorem renderedLine_unit {s : State} {n : Fin 112} (h : s.seq = .rendering n) :
    (renderedLine s).unit = Mob.blank := by
  rw [renderedLine, (border_paintFrame _).unit]
  exact sprites_unit (((border_lineFrame s).trans (background_lineFrame _)).seq.trans h)

/-- Settles O41: COPY_OUT, CLEAR and the move of SEQ touch none of these fields, and the words before keep them. -/
theorem lineKeepsSnapshot : Obligations.LineKeepsSnapshot := by
  intro s n h
  have f := renderedLine_lineFrame s
  refine ⟨_, step_line h, ?_⟩
  rw [lineStep_eq]
  generalize renderedLine s = u at f
  exact ⟨f.vd, f.hd, f.et, f.el, f.modeq, f.mode, f.params, f.inbox⟩

/-! ## The registers while a LINE runs (R33) -/

/-- Every cell is at most ORed into, bits 15:10 kept. -/
def RegsGrow (m m' : Memory) : Prop := ∀ a : Nat, RegGrows (m.read a) (m'.read a)

theorem RegsGrow.of_eq {m m' : Memory} (h : m' = m) : RegsGrow m m' := fun a => h ▸ RegGrows.refl (m.read a)

theorem RegsGrow.trans {m m' m'' : Memory} (h : RegsGrow m m') (k : RegsGrow m' m'') : RegsGrow m m'' :=
  fun a => (h a).trans (k a)

/-- MOB_COLL, read from its cell, starts from the register as it stands, so its one write only grows it. -/
theorem runCell_mobColl_regsGrow (i : Fin 8) (s : State) : RegsGrow s.mem (runCell s (.mobColl i)).mem := by
  let w := s.mem.read (collAddr i)
  obtain ⟨t, ht, -, hmem⟩ :=
    execMobColl_cases i (Layout.mobCMob.get w) (Layout.mobCBg.flag w) (Layout.mobCBorder.flag w) s
  have hrun : runCell s (.mobColl i) = t := after_next ht
  rw [hrun]
  obtain hmem | ⟨v, hv, hmem⟩ := hmem
  · exact .of_eq hmem
  · rw [collReg_decoded] at hv
    intro a
    rw [hmem, read_write]
    split
    · next ha => rw [ha]; exact hv
    · exact .refl _

theorem runCell_mob_regsGrow {i : Fin 8} {c : Cell} (h : c ∈ mobCells i) (s : State) :
    RegsGrow s.mem (runCell s c).mem := by
  simp only [mobCells, List.mem_cons, List.not_mem_nil, or_false] at h
  obtain rfl | rfl | rfl | rfl := h
  · exact .of_eq rfl
  · exact .of_eq rfl
  · exact .of_eq rfl
  · exact runCell_mobColl_regsGrow i s

theorem runMobs_regsGrow (l : List Cell) (h : ∀ c ∈ l, ∃ i, c ∈ mobCells i) (s : State) :
    RegsGrow s.mem (l.foldl runCell s).mem := by
  induction l generalizing s with
  | nil => exact .of_eq rfl
  | cons c l ih =>
    obtain ⟨i, hi⟩ := h c List.mem_cons_self
    exact (runCell_mob_regsGrow hi s).trans (ih (fun d hd => h d (List.mem_cons_of_mem _ hd)) _)

/-- Of a LINE's four steps only SPRITES writes memory. -/
theorem renderedLine_regsGrow (s : State) : RegsGrow s.mem (renderedLine s).mem := by
  rw [renderedLine, (border_paintFrame _).mem, ← ((border_paintFrame s).trans (background_paintFrame _)).mem]
  exact runMobs_regsGrow _ spriteCells_mob _

/-! ## FINALIZE (R220 to R223) -/

/-- Pass 1 over a list clears the self bits of its registers. -/
theorem clearSelfs_bit (l : List (Fin 8)) (m : Memory) (k : Fin 8) (b : Nat) :
    ((l.foldl clearSelf m).read (collAddr k)).getLsbD b =
      ((m.read (collAddr k)).getLsbD b && !(decide (k ∈ l) && decide (b = k.val))) := by
  induction l generalizing m with
  | nil => simp
  | cons i l ih =>
    rw [List.foldl_cons, ih, clearSelf_bit]
    by_cases hk : k = i
    · subst hk
      by_cases hb : b = k.val <;> simp [hb]
    · simp [hk]

/-- Pass 2 over a list clears no bit, and sets none of bits 15:8. -/
theorem mirrorRows_bit (l : List (Fin 8)) (m : Memory) (k : Fin 8) (b : Nat) :
    ((m.read (collAddr k)).getLsbD b = true → ((l.foldl mirrorRow m).read (collAddr k)).getLsbD b = true) ∧
    (8 ≤ b → ((l.foldl mirrorRow m).read (collAddr k)).getLsbD b = (m.read (collAddr k)).getLsbD b) := by
  induction l generalizing m with
  | nil => exact ⟨id, fun _ => rfl⟩
  | cons i l ih =>
    obtain ⟨hset, hkept⟩ := ih (mirrorRow m i)
    rw [List.foldl_cons]
    constructor
    · intro h
      apply hset
      rw [mirrorRow, mirrorFold_bit, h, Bool.true_or]
    · intro hb
      rw [hkept hb, mirrorRow, mirrorFold_bit, decide_eq_false (show ¬ b = i.val by omega)]
      simp

theorem clearSelfs_other (l : List (Fin 8)) (m : Memory) {a : Nat} (h : a < 0x18 ∨ 0x20 ≤ a) :
    (l.foldl clearSelf m).read a = m.read a := by
  induction l generalizing m with
  | nil => rfl
  | cons i l ih => rw [List.foldl_cons, ih, clearSelf_other m i h]

theorem mirrorRows_other (l : List (Fin 8)) (m : Memory) {a : Nat} (h : a < 0x18 ∨ 0x20 ≤ a) :
    (l.foldl mirrorRow m).read a = m.read a := by
  induction l generalizing m with
  | nil => rfl
  | cons i l ih => rw [List.foldl_cons, ih, mirrorRow, mirrorFold_other i mobsUp m h]

theorem finalizeMemory_other (m : Memory) {a : Nat} (h : a < 0x18 ∨ 0x20 ≤ a) :
    (finalizeMemory m).read a = m.read a := by
  rw [finalizeMemory, mirrorRows_other mobsUp _ h, clearSelfs_other mobsUp m h]

theorem finalizeMemory_kept (m : Memory) (i : Fin 8) {b : Nat} (h : 8 ≤ b) :
    ((finalizeMemory m).read (collAddr i)).getLsbD b = (m.read (collAddr i)).getLsbD b := by
  rw [finalizeMemory, (mirrorRows_bit mobsUp _ i b).2 h, clearSelfs_bit, decide_eq_false (show ¬ b = i.val by omega)]
  simp

/-- FINALIZE clears no bit but self bits. -/
theorem finalizeMemory_set (m : Memory) (i : Fin 8) {b : Nat} (hb : b ≠ i.val)
    (h : (m.read (collAddr i)).getLsbD b = true) : ((finalizeMemory m).read (collAddr i)).getLsbD b = true := by
  apply (mirrorRows_bit mobsUp _ i b).1
  rw [clearSelfs_bit, h, decide_eq_false hb]
  simp

theorem mirrorPair_wf (i : Fin 8) {m : Memory} (j : Fin 8) (h : m.wf = true) : (mirrorPair i m j).wf = true := by
  unfold mirrorPair
  split
  · exact write_wf _ _ _ h
  · exact h

/-- A fold of operations that keep the canonical form keeps it. -/
theorem foldl_wf {f : Memory → Fin 8 → Memory} (hf : ∀ m i, m.wf = true → (f m i).wf = true) (l : List (Fin 8))
    {m : Memory} (h : m.wf = true) : (l.foldl f m).wf = true := by
  induction l generalizing m with
  | nil => exact h
  | cons i l ih => exact ih (hf m i h)

theorem finalizeMemory_wf {m : Memory} (h : m.wf = true) : (finalizeMemory m).wf = true :=
  foldl_wf (fun _ i => foldl_wf (fun _ j => mirrorPair_wf i j) mobsUp) mobsUp
    (foldl_wf (fun _ _ => write_wf _ _ _) mobsUp h)

/-- Settles O40: a LINE only grows the registers; FINALIZE clears self bits only; neither writes another cell. -/
theorem coreWritesOnlyCollisionRegisters : Obligations.CoreWritesOnlyCollisionRegisters := by
  intro s hs
  cases h : s.seq with
  | idle => exact absurd h hs
  | rendering n =>
    have f := renderedLine_lineFrame s
    have grow := renderedLine_regsGrow s
    refine ⟨_, step_line h, ?_⟩
    rw [lineStep_eq]
    generalize renderedLine s = u at f grow
    exact ⟨f.cells, fun i j hj => (grow _).kept j hj, fun i j hj => .inl ((grow _).mono j hj)⟩
  | finalizing =>
    refine ⟨_, step_finalizing h, fun a ha => finalizeMemory_other s.mem ha,
      fun i j hj => finalizeMemory_kept s.mem i (by omega), fun i j hj => ?_⟩
    by_cases hself : j = i.val
    · exact .inr ⟨rfl, hself⟩
    · exact .inl (finalizeMemory_set s.mem i hself hj)

/-! ## The invariant -/

/-- LATCH puts the delays and CSP in range and leaves the rest of the invariant alone (R242). -/
theorem latch_inv {s : State} (h : s.Inv) : (latch s).Inv where
  memWf := h.memWf
  vdRange := by
    simp only [latch, resetCsp_vd, sampleMode_vd, setExtend_vd, setHdelay_vd, setVdelay_vd]
    omega
  hdRange := by
    simp only [latch, resetCsp_hd, sampleMode_hd, setExtend_hd, setHdelay_hd]
    omega
  cspRange := by
    rw [latch, resetCsp_csp]
    omega
  pal7Canonical := h.pal7Canonical
  buffersClear := h.buffersClear
  unitBlank := h.unitBlank
  useNothing := h.useNothing

/-- The invariant does not look at SEQ, MODE, the inbox or FRAME. -/
theorem State.Inv.congr {s : State} (h : s.Inv) (mode : Int) (frame : Vector (Row Color) 224) (seq : Seq)
    (inbox : List HostMove) : ({ s with mode := mode, frame := frame, seq := seq, inbox := inbox }).Inv :=
  ⟨h.memWf, h.vdRange, h.hdRange, h.cspRange, h.pal7Canonical, h.buffersClear, h.unitBlank, h.useNothing⟩

/-- A write to memory keeps the invariant when it keeps the canonical form. -/
theorem State.Inv.withMem {s : State} (h : s.Inv) {m : Memory} (hm : m.wf = true) : ({ s with mem := m }).Inv :=
  ⟨hm, h.vdRange, h.hdRange, h.cspRange, h.pal7Canonical, h.buffersClear, h.unitBlank, h.useNothing⟩

/-- A LINE keeps the invariant: the words keep latches and readiness, SPRITES drops the record, CLEAR ends it. -/
theorem lineStep_inv {s : State} {n : Fin 112} (h : s.Inv) (hs : s.seq = .rendering n) : (lineStep n s).Inv := by
  have f := renderedLine_lineFrame s
  have r := renderedLine_ready h.ready
  have hu := renderedLine_unit hs
  rw [lineStep_eq]
  generalize renderedLine s = u at f r hu
  exact
    { memWf := f.wf h.memWf
      vdRange := by
        rw [clearBuffers_vd, copyOut_vd, f.vd]
        exact h.vdRange
      hdRange := by
        rw [clearBuffers_hd, copyOut_hd, f.hd]
        exact h.hdRange
      cspRange := r.csp
      pal7Canonical := r.pal7
      buffersClear := ⟨rfl, rfl⟩
      unitBlank := hu
      useNothing := r.use }

/-- The host's turn keeps the invariant: a write keeps memory canonical, the command latches (R240, R266). -/
theorem hostTurn_inv {s t : State} (h : s.Inv) (hs : s.seq = .idle) (ht : hostTurn s = .next t) : t.Inv := by
  unfold hostTurn at ht
  split at ht
  · cases ht; exact h
  · cases ht; exact (h.withMem (write_wf _ _ _ h.memWf)).congr _ _ _ _
  · cases ht; exact h.congr _ _ _ _
  · simp only [exec, execRenderFrame, hs] at ht
    cases ht
    exact (latch_inv (h.congr _ _ _ _)).congr _ _ _ _

/-- Settles O48: one case per state of SEQ. -/
theorem stepKeepsInv : Obligations.StepKeepsInv := by
  intro s t h ht
  cases hs : s.seq with
  | idle => exact hostTurn_inv h hs (step_idle hs ▸ ht)
  | rendering n =>
    cases (step_line hs).symm.trans ht
    exact (lineStep_inv h hs).congr _ _ _ _
  | finalizing =>
    cases (step_finalizing hs).symm.trans ht
    exact (h.withMem (finalizeMemory_wf h.memWf)).congr _ _ _ _

end Sys2Proof.Machine
end

section
/-! State (10_state.md), two states a frame cannot tell apart: they agree but on the collision registers, FRAME, the inbox
and some columns of the color-stack cache. Every word of a LINE keeps the agreement, and an F_BT_CS word adds its column to
it on sub-row 0, so long as the cache entries a word reads are agreed. -/

namespace Sys2Proof.Machine

open Sys2Proof.Claims

/-- `t` is `s` but for the collision registers, FRAME, the inbox, and the cache outside the columns `P`. -/
inductive AgreeOn (P : Fin 20 → Prop) (s : State) : State → Prop where
  | mk (m : Memory) (f : Vector (Row Color) 224) (l : List HostMove) (cf cb : Vector PalIdx 20)
      (cells : ∀ a : Nat, a < 0x18 ∨ 0x20 ≤ a → m.read a = s.mem.read a)
      (fg : ∀ c : Fin 20, P c → cf[c] = s.cacheFg[c]) (bg : ∀ c : Fin 20, P c → cb[c] = s.cacheBg[c]) :
      AgreeOn P s { s with mem := m, frame := f, inbox := l, cacheFg := cf, cacheBg := cb }

variable {P Q : Fin 20 → Prop} {s t : State}

namespace AgreeOn

theorem mono (h : AgreeOn P s t) (hQ : ∀ c, Q c → P c) : AgreeOn Q s t := by
  cases h with
  | mk m f l cf cb cells fg bg => exact .mk m f l cf cb cells (fun c hc => fg c (hQ c hc)) (fun c hc => bg c (hQ c hc))

theorem read (h : AgreeOn P s t) {a : Nat} (ha : a < 0x18 ∨ 0x20 ≤ a) : t.mem.read a = s.mem.read a := by
  cases h with
  | mk m f l cf cb cells fg bg => exact cells a ha

theorem seq (h : AgreeOn P s t) : t.seq = s.seq := by cases h; rfl
theorem csp (h : AgreeOn P s t) : t.csp = s.csp := by cases h; rfl
theorem modeq (h : AgreeOn P s t) : t.modeq = s.modeq := by cases h; rfl
theorem unit (h : AgreeOn P s t) : t.unit = s.unit := by cases h; rfl
theorem cbuf (h : AgreeOn P s t) : t.cbuf = s.cbuf := by cases h; rfl
theorem line (h : AgreeOn P s t) : t.line = s.line := by cases h; rfl
theorem bgLine (h : AgreeOn P s t) : t.bgLine = s.bgLine := by cases h; rfl
theorem spriteLine (h : AgreeOn P s t) : t.spriteLine = s.spriteLine := by cases h; rfl

theorem cacheFg (h : AgreeOn P s t) {c : Fin 20} (hc : P c) : t.cacheFg[c] = s.cacheFg[c] := by
  cases h with
  | mk m f l cf cb cells fg bg => exact fg c hc

theorem cacheBg (h : AgreeOn P s t) {c : Fin 20} (hc : P c) : t.cacheBg[c] = s.cacheBg[c] := by
  cases h with
  | mk m f l cf cb cells fg bg => exact bg c hc

/-- The stack color is read at CSP, which is no collision register. -/
theorem stackColor (h : AgreeOn P s t) (hs : s.Ready) : t.stackColor = s.stackColor := by
  obtain ⟨hlo, -⟩ := hs.csp
  rw [State.stackColor, State.stackColor, h.csp, h.read (.inr (by omega))]

/-- A cell that is no collision register decodes to the same word. -/
theorem instrAt (h : AgreeOn P s t) {c : Cell} (hc : c.addr < 0x18 ∨ 0x20 ≤ c.addr) : t.instrAt c = s.instrAt c := by
  rw [State.instrAt, State.instrAt, h.modeq, h.read hc]

end AgreeOn

/-! ## Words that paint -/

theorem paintBorder_agree (h : AgreeOn P s t) (line : Int) (c : PalIdx) :
    AgreeOn P (paintBorder line c s) (paintBorder line c t) := by
  cases h with
  | mk m f l cf cb cells fg bg =>
    unfold paintBorder
    split
    · exact .mk m f l cf cb cells fg bg
    · exact .mk m f l cf cb cells fg bg

theorem border_agree (h : AgreeOn P s t) : AgreeOn P (border s) (border t) := by
  rw [border, border, runCell, runCell, h.instrAt (c := .border) (.inr (by decide))]
  show AgreeOn P (after (.borderColor _) s) (after (.borderColor _) t)
  simp only [after, exec, execBorderColor, h.line]
  cases s.line with
  | none => exact h
  | some n => exact paintBorder_agree h n _

theorem fetchRow_cardRow_agree (h : AgreeOn P s t) {a : Nat} (ha : 0x20 ≤ a) (col : Fin 20) (fg bg : PalIdx) :
    AgreeOn P (fetchRow a (.cardRow col fg bg) s) (fetchRow a (.cardRow col fg bg) t) := by
  rw [fetchRow_cardRow, fetchRow_cardRow, h.read (.inr ha)]
  cases h with
  | mk m f l cf cb cells fg bg => exact .mk m f l cf cb cells fg bg

theorem graphicBase_ge (gram : Bool) : 0x20 ≤ graphicBase gram := by cases gram <;> decide

theorem graphicAddr_ge (gram : Bool) (card row : Nat) : 0x20 ≤ graphicAddr gram card row := by
  have := graphicBase_ge gram
  unfold graphicAddr
  omega

theorem cspAdvance_agree (h : AgreeOn P s t) : AgreeOn P (cspAdvance s) (cspAdvance t) := by
  cases h with
  | mk m f l cf cb cells fg bg => exact .mk m f l cf cb cells fg bg

theorem cspAdvance_ready (h : s.Ready) : (cspAdvance s).Ready := ⟨nextCsp_range s.csp, h.pal7, h.use⟩

/-- Entries that agree on some columns agree on one more once both get the same value there. -/
theorem getElem_set_agree {v w : Vector PalIdx 20} (h : ∀ c : Fin 20, P c → w[c] = v[c]) (col : Fin 20) (x : PalIdx)
    (c : Fin 20) (hc : P c ∨ col = c) : (w.set col.val x col.isLt)[c] = (v.set col.val x col.isLt)[c] := by
  by_cases hcol : col = c
  · subst hcol
    simp
  · have hne : col.val ≠ c.val := fun e => hcol (Fin.ext e)
    simpa [hne] using h c (hc.resolve_right hcol)

/-- Step 1 of CS_CARD writes the same entries into both caches: its column is agreed after it. -/
theorem cacheCard_agree (h : AgreeOn P s t) (hs : s.Ready) (col : Fin 20) (fg : PalIdx) (adv : Bool) :
    AgreeOn (fun c => P c ∨ col = c) (cacheCard col fg adv s) (cacheCard col fg adv t) := by
  have color : (if adv then cspAdvance t else t).stackColor = (if adv then cspAdvance s else s).stackColor := by
    cases adv with
    | false => exact h.stackColor hs
    | true => exact (cspAdvance_agree h).stackColor (cspAdvance_ready hs)
  rw [cacheCard_eq, cacheCard_eq, color]
  cases h with
  | mk m f l cf cb cells hfg hbg =>
    exact .mk m f l _ _ cells (getElem_set_agree hfg col fg) (getElem_set_agree hbg col _)

theorem fgbgCard_agree (h : AgreeOn P s t) (col : Fin 20) (fg : BitVec 3) (card : BitVec 6) (bg : BitVec 4) (gram : Bool)
    (sub : Nat) : AgreeOn P (fgbgCard col fg card bg gram sub s) (fgbgCard col fg card bg gram sub t) :=
  fetchRow_cardRow_agree h (graphicAddr_ge _ _ _) _ _ _

/-- CS_CARD reads the cache entries of its column only after they are agreed: on sub-row 0 it has just written them, on
the others they must be agreed before. -/
theorem csCard_agree (h : AgreeOn P s t) (hs : s.Ready) (col : Fin 20) (fg : PalIdx) (gram : Bool) (card : Nat)
    (adv : Bool) (sub : Nat) (hcol : sub = 0 ∨ P col) :
    AgreeOn (fun c => P c ∨ col = c) (csCard col fg gram card adv sub s) (csCard col fg gram card adv sub t) := by
  have paint {u v : State} (k : AgreeOn (fun c => P c ∨ col = c) u v) (a : Nat) (ha : 0x20 ≤ a) :
      AgreeOn (fun c => P c ∨ col = c) (fetchRow a (.cardRow col u.cacheFg[col] u.cacheBg[col]) u)
        (fetchRow a (.cardRow col v.cacheFg[col] v.cacheBg[col]) v) := by
    rw [k.cacheFg (.inr rfl), k.cacheBg (.inr rfl)]
    exact fetchRow_cardRow_agree k ha _ _ _
  by_cases hsub : sub = 0
  · simp only [csCard, if_pos hsub]
    exact paint (cacheCard_agree h hs col fg adv) _ (graphicAddr_ge _ _ _)
  · simp only [csCard, if_neg hsub]
    refine paint (h.mono fun c hc => ?_) _ (graphicAddr_ge _ _ _)
    obtain hc | rfl := hc
    · exact hc
    · exact hcol.resolve_left hsub

theorem fetchStack_squareOverride_agree (h : AgreeOn P s t) (hs : s.Ready) :
    AgreeOn P (fetchStack .squareOverride s) (fetchStack .squareOverride t) := by
  rw [fetchStack_squareOverride, fetchStack_squareOverride, h.stackColor hs]
  cases h with
  | mk m f l cf cb cells fg bg => exact .mk m f l cf cb cells fg bg

theorem csqCard_agree (h : AgreeOn P s t) (hs : s.Ready) (col : Fin 20) (c0 c1 c2 c3 : BitVec 3) (sub : Nat) :
    AgreeOn P (csqCard col c0 c1 c2 c3 sub s) (csqCard col c0 c1 c2 c3 sub t) := by
  have k := fetchStack_squareOverride_agree h hs
  simp only [csqCard]
  generalize fetchStack .squareOverride s = u at k
  generalize fetchStack .squareOverride t = v at k
  cases k with
  | mk m f l cf cb cells fg bg => exact .mk m f l cf cb cells fg bg

theorem after_backtab_agree {i : Instr} (hi : isBacktab i = true) (h : AgreeOn P s t) (hs : s.Ready) {bl : Nat}
    (hb : s.bgLine = some bl) (hcol : bl % 8 = 0 ∨ ∀ c, stackColumn i = some c → P c) :
    AgreeOn (fun c => P c ∨ stackColumn i = some c) (after i s) (after i t) := by
  have hbt := h.bgLine.trans hb
  obtain ⟨hn, col, fg, card, bg, gram, hi⟩ | ⟨col, fg, gram, card, adv, hc, hi⟩ | ⟨hn, col, c0, c1, c2, c3, hi⟩ :=
    after_backtab_cases hi
  · rw [hi s bl hb, hi t bl hbt, hn]
    exact (fgbgCard_agree h col fg card bg gram _).mono fun c hc => hc.resolve_right (by simp)
  · rw [hi s bl hb, hi t bl hbt, hc]
    exact (csCard_agree h hs col fg gram card adv _ (hcol.imp_right fun k => k col hc)).mono fun c hc =>
      hc.imp_right Option.some.inj
  · rw [hi s bl hb, hi t bl hbt, hn]
    exact (csqCard_agree h hs col c0 c1 c2 c3 _).mono fun c hc => hc.resolve_right (by simp)

/-! ## A row of BACKTAB -/

theorem instrAt_backtab_congr {u v : State} (hm : v.modeq = u.modeq)
    (hc : ∀ a : Nat, a < 0x18 ∨ 0x20 ≤ a → v.mem.read a = u.mem.read a) (n : Fin 240) :
    v.instrAt (.backtab n) = u.instrAt (.backtab n) := by
  have ha : 0x20 ≤ (Cell.backtab n).addr := by simp only [Cell.addr]; omega
  rw [State.instrAt, State.instrAt, hm, hc _ (.inr ha)]

/-- Running BACKTAB cells adds the columns of their F_BT_CS words to the agreement, if these were agreed already or the
line is on sub-row 0. -/
theorem runBacktab_agree (l : List (Fin 240)) (h : AgreeOn P s t) (hs : s.Ready) {bl : Nat} (hb : s.bgLine = some bl)
    (hcol : bl % 8 = 0 ∨ ∀ n ∈ l, ∀ c, stackColumn (s.instrAt (.backtab n)) = some c → P c) :
    AgreeOn (fun c => P c ∨ ∃ n ∈ l, stackColumn (s.instrAt (.backtab n)) = some c)
      ((l.map Cell.backtab).foldl runCell s) ((l.map Cell.backtab).foldl runCell t) := by
  induction l generalizing P s t with
  | nil => exact h.mono fun c hc => hc.resolve_right (by simp)
  | cons n l ih =>
    have frame := runCell_backtab_paintFrame n s
    have instr (k : Fin 240) : (runCell s (.backtab n)).instrAt (.backtab k) = s.instrAt (.backtab k) := by
      rw [frame.same]; rfl
    have first : AgreeOn (fun c => P c ∨ stackColumn (s.instrAt (.backtab n)) = some c)
        (runCell s (.backtab n)) (runCell t (.backtab n)) := by
      rw [runCell, runCell, h.instrAt (c := .backtab n) (.inr (by simp only [Cell.addr]; omega))]
      exact after_backtab_agree (isBacktab_decodeCell _ _ _) h hs hb (hcol.imp_right fun k => k n List.mem_cons_self)
    have rest := ih first (frame.ready hs) (by rw [frame.same]; exact hb)
      (hcol.imp_right fun k m hm c hc => .inl (k m (List.mem_cons_of_mem _ hm) c (by rw [← instr]; exact hc)))
    simp only [instr] at rest
    exact rest.mono fun c hc => by simpa [or_assoc] using hc

/-- Column `c` holds an F_BT_CS word in the card row of background line `bl`. -/
def StackCard (s : State) (bl : Nat) (c : Fin 20) : Prop :=
  ∃ n ∈ backgroundRow bl, stackColumn (s.instrAt (.backtab n)) = some c

/-- The line reads the cache entries of column `c` without writing them first: it is not on sub-row 0 (R161, R162). -/
def ReadsCache (s : State) (c : Fin 20) : Prop := ∃ bl, s.bgLine = some bl ∧ bl % 8 ≠ 0 ∧ StackCard s bl c

/-- The line reads the cache entries of column `c`, written before or by itself. -/
def UsesCache (s : State) (c : Fin 20) : Prop := ∃ bl, s.bgLine = some bl ∧ StackCard s bl c

theorem resetCsp_agree (h : AgreeOn P s t) : AgreeOn P (resetCsp s) (resetCsp t) := by
  cases h with
  | mk m f l cf cb cells fg bg => exact .mk m f l cf cb cells fg bg

/-- A line whose cache reads are agreed renders the same background, and ends with every entry it used agreed. -/
theorem background_agree (h : AgreeOn (ReadsCache s) s t) (hs : s.Ready) :
    AgreeOn (UsesCache s) (background s) (background t) := by
  cases hb : s.bgLine with
  | none =>
    rw [background, background, h.bgLine, hb]
    exact h.mono fun c ⟨bl, hbl, _⟩ => absurd (hb.symm.trans hbl) (by simp)
  | some bl =>
    have row {u v : State} (k : AgreeOn (ReadsCache s) u v) (f : PaintFrame s u) :
        AgreeOn (UsesCache s) ((backgroundCells bl).foldl runCell u) ((backgroundCells bl).foldl runCell v) := by
      have instr (n : Fin 240) : u.instrAt (.backtab n) = s.instrAt (.backtab n) := by rw [f.same]; rfl
      have reads : bl % 8 = 0 ∨ ∀ n ∈ backgroundRow bl, ∀ c, stackColumn (u.instrAt (.backtab n)) = some c →
          ReadsCache s c := by
        by_cases hsub : bl % 8 = 0
        · exact .inl hsub
        · exact .inr fun n hn c hc => ⟨bl, hb, hsub, n, hn, instr n ▸ hc⟩
      rw [backgroundCells_eq]
      refine (runBacktab_agree _ k (f.ready hs) (by rw [f.same]; exact hb) reads).mono fun c hc => ?_
      obtain ⟨bl', hbl, n, hn, hc⟩ := hc
      obtain rfl : bl = bl' := Option.some.inj (hb.symm.trans hbl)
      exact .inr ⟨n, hn, (instr n).symm ▸ hc⟩
    rw [background, background, h.bgLine, hb, h.modeq]
    dsimp only
    split
    · exact row (resetCsp_agree h) (resetCsp_paintFrame s)
    · exact row h (.refl s)

/-! ## Words of the MOBs -/

/-- Two canvases that differ at most in the collision register and its mark. -/
def SameBuffers (v w : Canvas) : Prop := w.color = v.color ∧ w.coll = v.coll

/-- What a pixel paints and tags does not depend on the register (R191, R192). -/
theorem mobPixel_sameBuffers (i : Fin 8) (u : Mob) (color : Color) (hd : Nat) (o : Vector Int 4) (b : Byte)
    {v w : Canvas} (h : SameBuffers v w) (p : Nat) :
    SameBuffers (mobPixel i u color hd o b v p) (mobPixel i u color hd o b w p) := by
  obtain ⟨hcolor, hcoll⟩ := h
  unfold mobPixel
  split
  · simp only [SameBuffers, mobPaint, mobCollide]
    split
    · simp only [hcolor, hcoll, and_self]
    · simp only [hcolor, hcoll, and_self]
  · exact ⟨hcolor, hcoll⟩

theorem mobPixels_sameBuffers (i : Fin 8) (u : Mob) (color : Color) (hd : Nat) (o : Vector Int 4) (b : Byte)
    (l : List Nat) {v w : Canvas} (h : SameBuffers v w) :
    SameBuffers (l.foldl (mobPixel i u color hd o b) v) (l.foldl (mobPixel i u color hd o b) w) := by
  induction l generalizing v w with
  | nil => exact h
  | cons p l ih => exact ih (mobPixel_sameBuffers i u color hd o b h p)

theorem mobCopy_sameBuffers (h : AgreeOn P s t) (i : Fin 8) (k : Fin 2) (r r' : Word) (w w' : Bool) :
    SameBuffers (mobCopy i s k r w) (mobCopy i t k r' w') := by
  cases h
  exact mobPixels_sameBuffers _ _ _ _ _ _ _ ⟨rfl, rfl⟩

theorem mobComposite_read_other (i : Fin 8) (r : Word) (s : State) {a : Nat} (ha : a < 0x18 ∨ 0x20 ≤ a) :
    (mobComposite i r s).mem.read a = s.mem.read a := by
  simp only [mobComposite]
  split
  · exact read_write_other _ (by unfold collAddr; omega) _
  · rfl

/-- The composite paints the same buffers from any value of the register, and writes only that register. -/
theorem mobComposite_agree (h : AgreeOn P s t) (i : Fin 8) (r r' : Word) :
    AgreeOn P (mobComposite i r s) (mobComposite i r' t) := by
  have cells : ∀ a : Nat, a < 0x18 ∨ 0x20 ≤ a →
      (mobComposite i r' t).mem.read a = (mobComposite i r s).mem.read a := fun a ha => by
    rw [mobComposite_read_other i r' t ha, mobComposite_read_other i r s ha, h.read ha]
  obtain ⟨color0, coll0⟩ := mobCopy_sameBuffers h i 0 r r' false false
  obtain ⟨color1, coll1⟩ := mobCopy_sameBuffers h i 1 (mobCopy i s 0 r false).reg (mobCopy i t 0 r' false).reg
    (mobCopy i s 0 r false).wrote (mobCopy i t 0 r' false).wrote
  simp only [mobComposite, color0, coll0, color1, coll1] at cells ⊢
  generalize (if (mobCopy i t 1 _ _).wrote then _ else t.mem) = m at cells ⊢
  cases h with
  | mk _ f l cf cb _ fg bg => exact .mk m f l cf cb cells fg bg

theorem clearCol167_agree (h : AgreeOn P s t) : AgreeOn P (clearCol167 s) (clearCol167 t) := by
  cases h with
  | mk m f l cf cb cells fg bg => exact .mk m f l cf cb cells fg bg

theorem fetchRow_mobRow_agree (h : AgreeOn P s t) {a : Nat} (ha : 0x20 ≤ a) (to0 to1 : Bool) :
    AgreeOn P (fetchRow a (.mobRow to0 to1) s) (fetchRow a (.mobRow to0 to1) t) := by
  rw [fetchRow_mobRow, fetchRow_mobRow, h.read (.inr ha)]
  cases h with
  | mk m f l cf cb cells fg bg => exact .mk m f l cf cb cells fg bg

theorem mobBase_ge (u : Mob) (r : Nat) : 0x20 ≤ u.base + r := by
  have := graphicBase_ge u.gram
  unfold Mob.base
  omega

theorem fetchMobRows_agree (h : AgreeOn P s t) (d : Nat) : AgreeOn P (fetchMobRows d s) (fetchMobRows d t) := by
  simp only [fetchMobRows, h.unit]
  split
  · exact fetchRow_mobRow_agree (fetchRow_mobRow_agree h (mobBase_ge _ _) _ _) (mobBase_ge _ _) _ _
  · exact fetchRow_mobRow_agree h (mobBase_ge _ _) _ _

theorem mobPass_agree (h : AgreeOn P s t) (i : Fin 8) (r r' : Word) (sl : Int) :
    AgreeOn P (mobPass i r sl s) (mobPass i r' sl t) := by
  simp only [mobPass, h.unit]
  split
  · exact mobComposite_agree (fetchMobRows_agree (clearCol167_agree h) _) i r r'
  · exact h

theorem mapUnit_agree (h : AgreeOn P s t) (g : Mob → Mob) :
    AgreeOn P { s with unit := g s.unit } { t with unit := g t.unit } := by
  cases h with
  | mk m f l cf cb cells fg bg => exact .mk m f l cf cb cells fg bg

/-- The two registers may differ, and what MOB_COLL does to the buffers does not depend on them (R240). -/
theorem runCell_mobColl_agree (h : AgreeOn P s t) (i : Fin 8) :
    AgreeOn P (runCell s (.mobColl i)) (runCell t (.mobColl i)) := by
  simp only [runCell, State.instrAt, decodeCell, after, exec, execMobColl, h.spriteLine]
  cases s.spriteLine with
  | none => exact h
  | some sl => exact mapUnit_agree (mobPass_agree h i _ _ sl) fun _ => Mob.blank

theorem runCell_mob_agree (h : AgreeOn P s t) {i : Fin 8} {c : Cell} (hc : c ∈ mobCells i) :
    AgreeOn P (runCell s c) (runCell t c) := by
  have same {c : Cell} (ha : c.addr < 0x18) (k : AgreeOn P (after (s.instrAt c) s) (after (s.instrAt c) t)) :
      AgreeOn P (runCell s c) (runCell t c) := by
    rw [runCell, runCell, h.instrAt (.inl ha)]
    exact k
  simp only [mobCells, List.mem_cons, List.not_mem_nil, or_false] at hc
  obtain rfl | rfl | rfl | rfl := hc
  · exact same (by simp only [Cell.addr]; omega)
      (mapUnit_agree h fun u => { u with x := _, intr := _, visb := _, xsize := _ })
  · exact same (by simp only [Cell.addr]; omega)
      (mapUnit_agree h fun u => { u with y := _, yres := _, ysize := _, xflip := _, yflip := _ })
  · exact same (by simp only [Cell.addr]; omega)
      (mapUnit_agree h fun u => { u with fg := _, card := _, gram := _, prio := _ })
  · exact runCell_mobColl_agree h i

theorem runMobs_agree (l : List Cell) (hl : ∀ c ∈ l, ∃ i, c ∈ mobCells i) (h : AgreeOn P s t) :
    AgreeOn P (l.foldl runCell s) (l.foldl runCell t) := by
  induction l generalizing s t with
  | nil => exact h
  | cons c l ih =>
    obtain ⟨i, hi⟩ := hl c List.mem_cons_self
    exact ih (fun d hd => hl d (List.mem_cons_of_mem _ hd)) (runCell_mob_agree h hi)

theorem sprites_agree (h : AgreeOn P s t) : AgreeOn P (sprites s) (sprites t) := runMobs_agree _ spriteCells_mob h

end Sys2Proof.Machine
end

section
/-! State (10_state.md), a frame is a function of the snapshot: two runs that start from the same snapshot stay agreed, LINE
by LINE, and every LINE puts the same two rows into both frames. -/

namespace Sys2Proof.Machine

open Sys2Proof.Claims

variable {s t : State}

/-! ## Running two states side by side -/

theorem run_next (M : Host.Core) {s u : M.State} (h : M.step s = .next u) (k : Nat) : M.run (k + 1) s = M.run k u := by
  rw [Host.Core.run, h]

theorem runSteps_next {s u : State} (h : step s = .next u) (k : Nat) : runSteps (k + 1) s = runSteps k u :=
  run_next Sys2Proof.core h k

/-- A relation, indexed by the steps taken, that every pair of steps carries on holds after any number of them. -/
theorem runSteps_simulation {R : Nat → State → State → Prop} {N : Nat}
    (hstep : ∀ n s t, n < N → R n s t → ∃ s' t', step s = .next s' ∧ step t = .next t' ∧ R (n + 1) s' t')
    (k n : Nat) (hN : n + k = N) (h : R n s t) :
    ∃ s' t', (∀ j, runSteps (k + j) s = runSteps j s') ∧ (∀ j, runSteps (k + j) t = runSteps j t') ∧ R N s' t' := by
  induction k generalizing n s t with
  | zero =>
    obtain rfl : n = N := hN
    exact ⟨s, t, fun j => by rw [Nat.zero_add], fun j => by rw [Nat.zero_add], h⟩
  | succ k ih =>
    obtain ⟨u, v, hu, hv, huv⟩ := hstep n s t (by omega) h
    obtain ⟨s', t', hs', ht', hR⟩ := ih (n + 1) (by omega) huv
    exact ⟨s', t', fun j => by rw [Nat.add_right_comm, runSteps_next hu, hs'],
      fun j => by rw [Nat.add_right_comm, runSteps_next hv, ht'], hR⟩

/-! ## One LINE in both -/

theorem bgLine_of_lineFrame (f : LineFrame s t) : t.bgLine = s.bgLine := by
  simp only [State.bgLine, State.line, f.seq, f.vd]

theorem stackCard_of_lineFrame (f : LineFrame s t) (bl : Nat) (c : Fin 20) : StackCard t bl c ↔ StackCard s bl c := by
  simp only [StackCard, instrAt_backtab_congr f.modeq f.cells]

theorem readsCache_of_lineFrame (f : LineFrame s t) (c : Fin 20) : ReadsCache t c ↔ ReadsCache s c := by
  simp only [ReadsCache, bgLine_of_lineFrame f, stackCard_of_lineFrame f]

theorem usesCache_of_lineFrame (f : LineFrame s t) (c : Fin 20) : UsesCache t c ↔ UsesCache s c := by
  simp only [UsesCache, bgLine_of_lineFrame f, stackCard_of_lineFrame f]

theorem renderedLine_agree (h : AgreeOn (ReadsCache s) s t) (hs : s.Ready) :
    AgreeOn (UsesCache s) (renderedLine s) (renderedLine t) := by
  have f := border_lineFrame s
  have reads : AgreeOn (ReadsCache (border s)) (border s) (border t) :=
    (border_agree h).mono fun c => (readsCache_of_lineFrame f c).mp
  have uses : AgreeOn (UsesCache s) (background (border s)) (background (border t)) :=
    (background_agree reads ((border_paintFrame s).ready hs)).mono fun c => (usesCache_of_lineFrame f c).mpr
  exact border_agree (sprites_agree uses)

/-- The first `k` lines of two frames hold the same pixels. -/
def SameRows (k : Nat) (f g : Vector (Row Color) 224) : Prop := ∀ (y : Nat) (hy : y < 224), y < 2 * k → g[y] = f[y]

/-- A LINE adds its two rows, copied from the same working buffer. -/
theorem lineStep_sameRows {P : Fin 20 → Prop} (h : AgreeOn P (renderedLine s) (renderedLine t)) {n : Fin 112}
    (hrows : SameRows n.val s.frame t.frame) : SameRows (n.val + 1) (lineStep n s).frame (lineStep n t).frame := by
  have hframe := (renderedLine_lineFrame s).frame
  have hframe' := (renderedLine_lineFrame t).frame
  intro y hy hlt
  simp only [lineStep_eq, clearBuffers_frame, copyOut_frame, hframe, hframe', h.cbuf, Vector.getElem_setIfInBounds]
  split
  · rfl
  · split
    · rfl
    · exact hrows y hy (by omega)

theorem lineStep_agree {P : Fin 20 → Prop} (h : AgreeOn P (renderedLine s) (renderedLine t)) (n : Fin 112) (q : Seq) :
    AgreeOn P { lineStep n s with seq := q } { lineStep n t with seq := q } := by
  rw [lineStep_eq, lineStep_eq]
  generalize renderedLine s = u at h
  generalize renderedLine t = v at h
  cases h with
  | mk m f l cf cb cells fg bg => exact .mk m _ l cf cb cells fg bg

/-! ## From line to line -/

/-- SEQ when `n` lines of the frame are done. -/
def seqAt (n : Nat) : Seq := if h : n < 112 then .rendering ⟨n, h⟩ else .finalizing

theorem seqAt_val (n : Fin 112) : seqAt n.val = .rendering n := dif_pos n.isLt

theorem seqAfter_eq (n : Fin 112) : seqAfter n = seqAt (n.val + 1) := by
  unfold seqAfter seqAt
  split
  · rw [dif_pos]
  · rw [dif_neg (by omega)]

theorem backgroundRow_congr {bl bl' : Nat} (h : bl / 8 = bl' / 8) : backgroundRow bl = backgroundRow bl' := by
  simp only [backgroundRow, h]

/-- What the next line reads from the cache without writing it, this line has used: a card row starts on sub-row 0, and
its words do not change (R161, R162, R243). -/
theorem usesCache_of_readsCache_next {u : State} {n : Fin 112} (hs : s.seq = .rendering n) (hvd : u.vd = s.vd)
    (hm : u.modeq = s.modeq) (hcells : ∀ a : Nat, a < 0x18 ∨ 0x20 ≤ a → u.mem.read a = s.mem.read a) {c : Fin 20}
    (h : ReadsCache { u with seq := seqAfter n } c) : UsesCache s c := by
  obtain ⟨bl, hbl, hsub, k, hk, hc⟩ := h
  obtain ⟨line, hseq, hline, hlt⟩ := bgLine_eq_some_iff.mp hbl
  simp only [hvd] at hline
  have hnext : line.val = n.val + 1 := by
    simp only [seqAfter] at hseq
    split at hseq
    · cases hseq
      rfl
    · exact absurd hseq (by simp)
  refine ⟨bl - 1, bgLine_eq_some hs (by omega) (by omega), k, ?_, ?_⟩
  · rw [backgroundRow_congr (show (bl - 1) / 8 = bl / 8 by omega)]
    exact hk
  · rw [← instrAt_backtab_congr hm hcells k]
    exact hc

/-- Two renderings of one snapshot with `n` lines done: agreed on every cache entry the next line reads, and with the
same rows in FRAME so far. -/
structure FrameSim (n : Nat) (s t : State) : Prop where
  inv   : s.Inv
  seq   : s.seq = seqAt n
  agree : AgreeOn (ReadsCache s) s t
  rows  : SameRows n s.frame t.frame

theorem FrameSim.next {n : Fin 112} (h : FrameSim n.val s t) :
    ∃ s' t', step s = .next s' ∧ step t = .next t' ∧ FrameSim (n.val + 1) s' t' := by
  have hs : s.seq = .rendering n := h.seq.trans (seqAt_val n)
  have ht : t.seq = .rendering n := h.agree.seq.trans hs
  have k := renderedLine_agree h.agree h.inv.ready
  have uses (c : Fin 20) (hc : ReadsCache { lineStep n s with seq := seqAfter n } c) : UsesCache s c :=
    usesCache_of_readsCache_next hs (lineStep_vd n s) (lineStep_modeq n s) (lineStep_cells n s) hc
  exact ⟨_, _, step_line hs, step_line ht, stepKeepsInv _ _ h.inv (step_line hs), seqAfter_eq n,
    (lineStep_agree k n _).mono uses, lineStep_sameRows k h.rows⟩

/-! ## The two ends of a frame -/

/-- FINALIZE leaves FRAME alone, so with every line done the frames are equal. -/
theorem FrameSim.finalize (h : FrameSim 112 s t) :
    ∃ s' t', step s = .next s' ∧ step t = .next t' ∧ s'.frame = t'.frame := by
  have hs : s.seq = .finalizing := h.seq
  refine ⟨_, _, step_finalizing hs, step_finalizing (h.agree.seq.trans hs), ?_⟩
  show s.frame = t.frame
  ext y hy : 1
  exact (h.rows y hy (by omega)).symm

/-- LATCH, its words in the bits that it reads (R242). -/
theorem latch_eq (s : State) : latch s = { s with
    vd := 8 + (Layout.delay.get (s.mem.read 0x31)).toNat
    hd := 2 * (8 + (Layout.delay.get (s.mem.read 0x30)).toNat)
    et := Layout.extTop.flag (s.mem.read 0x32)
    el := Layout.extLeft.flag (s.mem.read 0x32)
    modeq := decide (s.mode ≠ 0)
    csp := 0x28 } := rfl

/-- After LATCH two states of the invariant with one snapshot differ only where a frame does not look: LATCH overwrites
latches and CSP, and the invariant fixes PAL7, the working buffers and the model's own fields. -/
theorem latch_agree (hs : s.Inv) (ht : t.Inv) (hmode : s.mode = t.mode) (hparams : s.params = t.params)
    (hcells : ∀ a : Nat, a < 0x18 ∨ 0x20 ≤ a → s.mem.read a = t.mem.read a) (q : Seq) :
    AgreeOn (fun _ => False) { latch s with seq := q } { latch t with seq := q } := by
  have hpal : t.pal7 = s.pal7 := by rw [hs.pal7Canonical, ht.pal7Canonical, hparams]
  have hcbuf : t.cbuf = s.cbuf := by rw [hs.buffersClear.1, ht.buffersClear.1]
  have hbbuf : t.bbuf = s.bbuf := by rw [hs.buffersClear.2, ht.buffersClear.2]
  have hunit : t.unit = s.unit := by rw [hs.unitBlank, ht.unitBlank]
  have huse : t.use = s.use := by rw [hs.useNothing, ht.useNothing]
  simp only [latch_eq, ← hmode, ← hparams, hpal, hcbuf, hbbuf, hunit, huse, ← hcells 0x30 (.inr (by decide)),
    ← hcells 0x31 (.inr (by decide)), ← hcells 0x32 (.inr (by decide))]
  exact .mk t.mem t.frame t.inbox t.cacheFg t.cacheBg (fun a ha => (hcells a ha).symm) (fun _ h => h.elim)
    (fun _ h => h.elim)

/-- Line 0 lies above the window, whose first line is VD, so it reads no cache entry (R21, R244). -/
theorem not_readsCache_line_zero (hs : s.seq = .rendering 0) (hvd : 8 ≤ s.vd) (c : Fin 20) : ¬ ReadsCache s c := by
  rintro ⟨bl, hbl, -, -⟩
  obtain ⟨line, hseq, hline, -⟩ := bgLine_eq_some_iff.mp hbl
  cases hs.symm.trans hseq
  exact absurd hline (by simp only [Fin.val_zero]; omega)

theorem frameSim_latch (hs : s.Inv) (ht : t.Inv) (hmode : s.mode = t.mode) (hparams : s.params = t.params)
    (hcells : ∀ a : Nat, a < 0x18 ∨ 0x20 ≤ a → s.mem.read a = t.mem.read a) :
    FrameSim 0 { latch s with seq := .rendering 0 } { latch t with seq := .rendering 0 } where
  inv := (latch_inv hs).congr _ _ _ _
  seq := rfl
  agree := (latch_agree hs ht hmode hparams hcells _).mono
    (not_readsCache_line_zero rfl (latch_inv hs).vdRange.1)
  rows := fun y hy hlt => absurd hlt (by omega)

/-- Settles O46: the command latches, the lines stay agreed by induction, FINALIZE leaves FRAME alone. -/
theorem frameIsDeterminedBySnapshot : Obligations.FrameIsDeterminedBySnapshot := by
  intro s t rs rt hs ht hsi hti hsb htb hmode hparams hcells
  have start {u : State} {r : List HostMove} (hu : u.seq = .idle) (hb : u.inbox = .renderFrame :: r) :
      step u = .next { latch { u with inbox := r } with seq := .rendering 0 } := by
    rw [step_idle hu, hostTurn, hb]
    simp only [exec, execRenderFrame, hu]
  have sim0 := frameSim_latch (s := { s with inbox := rs }) (t := { t with inbox := rt }) (hs.congr _ _ _ _)
    (ht.congr _ _ _ _) hmode hparams hcells
  obtain ⟨u, v, hu, hv, sim⟩ := runSteps_simulation (fun n _ _ hn => FrameSim.next (n := ⟨n, hn⟩)) 112 0 rfl sim0
  obtain ⟨s', t', hs', ht', hframe⟩ := sim.finalize
  refine ⟨s', t', ?_, ?_, hframe⟩
  · rw [runSteps_next (start hsi hsb) 113, hu 1, runSteps_next hs' 0]
    rfl
  · rw [runSteps_next (start hti htb) 113, hv 1, runSteps_next ht' 0]
    rfl

end Sys2Proof.Machine
end

section
/-! Memory (20_memory.md): the host's turn in IDLE, one equation for each move, and when the host sees FRAME (R266). -/

namespace Sys2Proof.Machine

open Sys2Proof.Claims

variable {s : State} {rest : List HostMove}

/-! ## A step in IDLE, by the oldest move of the inbox -/

theorem step_idle_wait (hs : s.seq = .idle) (hi : s.inbox = []) : step s = .next s := by
  rw [step_idle hs, hostTurn, hi]

theorem step_idle_write {a : Nat} {v : Word} (hs : s.seq = .idle) (hi : s.inbox = .write a v :: rest) :
    step s = .next { s with mem := s.mem.write a v, inbox := rest } := by
  rw [step_idle hs, hostTurn, hi]

theorem step_idle_setMode {m : Int} (hs : s.seq = .idle) (hi : s.inbox = .setMode m :: rest) :
    step s = .next { s with mode := m, inbox := rest } := by
  rw [step_idle hs, hostTurn, hi]

/-! ## What the host sees of FRAME -/

theorem hostFrame_idle (hs : s.seq = .idle) : hostFrame s = some s.frame := by
  rw [hostFrame, hs]

theorem hostFrame_busy (hs : s.seq ≠ .idle) : hostFrame s = none := by
  unfold hostFrame
  split
  next h => exact absurd h hs
  next => rfl
  next => rfl

/-- Settles O47: the step's equation for each move; that a write sets its cell and no other is the memory's own law. -/
theorem hostMovesInIdle : Obligations.HostMovesInIdle := by
  refine ⟨fun s rest a v hs hi => ?_, fun _ _ _ => step_idle_setMode, fun _ => step_idle_wait,
    fun _ => ⟨hostFrame_idle, hostFrame_busy⟩⟩
  exact ⟨_, step_idle_write hs hi, rfl, read_write_same _ a v, fun _ hb => read_write_other _ hb v⟩

end Sys2Proof.Machine
end

section
/-! Encoding (30_encoding.md), the fields of the layout table: what a field reads back from a word that fields were put
into, and what putting back the fields of a word keeps of it. -/

namespace Sys2Proof

variable {n m : Nat}

/-! ## Reading a field after a put (R10) -/

/-- Bit j of a word that holds `v` in the field and 0 elsewhere. -/
theorem Field.getLsbD_put (f : Field n) (v : BitVec n) (j : Nat) :
    (f.put v).getLsbD j = (decide (j < 16) && decide (f.lo ≤ j) && v.getLsbD (j - f.lo)) := by
  rw [Field.put, BitVec.getLsbD_shiftLeft, BitVec.getLsbD_setWidth]
  by_cases h : j < 16
  · by_cases hl : f.lo ≤ j
    · simp [h, hl, show j - f.lo < 16 by omega]
    · simp [hl]
  · simp [h]

theorem Field.getLsbD_get (f : Field n) (w : Word) (j : Nat) :
    (f.get w).getLsbD j = (decide (j < n) && w.getLsbD (f.lo + j)) := BitVec.getLsbD_extractLsb' f.lo n w j

@[simp] theorem Field.get_or (f : Field n) (v w : Word) : f.get (v ||| w) = f.get v ||| f.get w :=
  BitVec.extractLsb'_or

/-- A field that fits into the word is read back. -/
@[simp] theorem Field.get_put_same (f : Field n) (h : f.lo + n ≤ 16) (v : BitVec n) : f.get (f.put v) = v := by
  refine BitVec.eq_of_getLsbD_eq fun j hj => ?_
  rw [f.getLsbD_get, f.getLsbD_put, Nat.add_sub_cancel_left]
  simp [hj, show f.lo + j < 16 by omega]

/-- A field that shares no bit with the one put reads 0. -/
@[simp] theorem Field.get_put_disjoint (f : Field n) (g : Field m) (h : f.lo + n ≤ g.lo ∨ g.lo + m ≤ f.lo)
    (v : BitVec m) : f.get (g.put v) = 0 := by
  refine BitVec.eq_of_getLsbD_eq fun j hj => ?_
  rw [f.getLsbD_get, g.getLsbD_put]
  obtain h | h := h
  · simp [show ¬ g.lo ≤ f.lo + j by omega]
  · simp [BitVec.getLsbD_of_ge v (f.lo + j - g.lo) (by omega)]

/-- A flag is its field's only bit. -/
theorem Field.ofBool_flag (f : Field 1) (w : Word) : BitVec.ofBool (f.flag w) = f.get w := by
  refine BitVec.eq_of_getLsbD_eq fun j hj => ?_
  obtain rfl : j = 0 := by omega
  rw [f.getLsbD_get]
  simp [Field.flag]

@[simp] theorem Field.flag_or (f : Field 1) (v w : Word) : f.flag (v ||| w) = (f.flag v || f.flag w) :=
  BitVec.getLsbD_or

@[simp] theorem Field.flag_putFlag_same (f : Field 1) (h : f.lo < 16) (b : Bool) : f.flag (f.putFlag b) = b := by
  rw [Field.flag, Field.putFlag, f.getLsbD_put, Nat.sub_self]
  simp [h]

@[simp] theorem Field.flag_put_disjoint (f : Field 1) (g : Field m) (h : f.lo < g.lo ∨ g.lo + m ≤ f.lo) (v : BitVec m) :
    f.flag (g.put v) = false := by
  rw [Field.flag, g.getLsbD_put]
  obtain h | h := h
  · simp [show ¬ g.lo ≤ f.lo by omega]
  · simp [BitVec.getLsbD_of_ge v (f.lo - g.lo) (by omega)]

@[simp] theorem Field.flag_putFlag_disjoint (f g : Field 1) (h : f.lo < g.lo ∨ g.lo < f.lo) (b : Bool) :
    f.flag (g.putFlag b) = false := f.flag_put_disjoint g h _

@[simp] theorem Field.get_putFlag_disjoint (f : Field n) (g : Field 1) (h : f.lo + n ≤ g.lo ∨ g.lo < f.lo) (b : Bool) :
    f.get (g.putFlag b) = 0 := f.get_put_disjoint g h _

/-! ## Putting a field back -/

/-- The word with ones in the field and zeros elsewhere. -/
def Field.mask (f : Field n) : Word := f.put (BitVec.allOnes n)

/-- Putting back what a field reads keeps the word's bits of the field. -/
theorem Field.put_get (f : Field n) (w : Word) : f.put (f.get w) = w &&& f.mask := by
  refine BitVec.eq_of_getLsbD_eq fun j hj => ?_
  rw [BitVec.getLsbD_and, Field.mask, f.getLsbD_put, f.getLsbD_put, f.getLsbD_get, BitVec.getLsbD_allOnes]
  by_cases h : f.lo ≤ j
  · simp [hj, h, Bool.and_comm]
  · simp [h]

theorem Field.putFlag_flag (f : Field 1) (w : Word) : f.putFlag (f.flag w) = w &&& f.mask := by
  rw [Field.putFlag, f.ofBool_flag, f.put_get]

end Sys2Proof
end

section
/-! Encoding (30_encoding.md), the decoder read back: which instructions a cell decodes to, and that the encoder undoes
it. -/

namespace Sys2Proof

open Sys2Proof.Claims Sys2Proof.Machine

/-! ## Decoding by cell (R32, R90) -/

/-- The cell found at an address is the cell of that address. -/
theorem Cell.addr_of_ofAddr {a : Nat} {c : Cell} (h : Cell.ofAddr a = some c) : c.addr = a := by
  have hm : Mapped a := by
    by_contra hn
    rw [ofAddr_none hn] at h
    cases h
  obtain ⟨d, rfl⟩ := exists_cell_of_mapped hm
  rw [Cell.ofAddr_addr] at h
  cases h
  rfl

/-- A word decodes exactly where a cell stands, and to what the cell decodes it to. -/
theorem decode_eq_ok_iff {modeq : Bool} {a : Nat} {w : Word} {i : Instr} :
    decode modeq a w = .ok i ↔ ∃ c : Cell, c.addr = a ∧ decodeCell modeq c w = i := by
  constructor
  · intro h
    unfold decode at h
    split at h
    · next c hc => exact ⟨c, Cell.addr_of_ofAddr hc, Except.ok.inj h⟩
    · cases h
  · rintro ⟨c, rfl, rfl⟩
    exact decode_cell_addr modeq c w

/-! ## The four sub-modes of color-stack mode (R94) -/

theorem decodeCs_subMode_zero {w : Word} (h : Layout.btSubMode.get w = 0) (n : Fin 240) :
    decodeCs n w = .btCsCardGrom n (Layout.btFg.get w) (Layout.btCard8.get w) (Layout.btAdv.flag w) := if_pos h

theorem decodeCs_subMode_one {w : Word} (h : Layout.btSubMode.get w = 1) (n : Fin 240) :
    decodeCs n w = .btCsCardGram n (Layout.btFg.get w) (Layout.btCard6.get w) (Layout.btAdv.flag w) := by
  rw [decodeCs, if_neg (by rw [h]; decide), if_pos h]

theorem decodeCs_subMode_two {w : Word} (h : Layout.btSubMode.get w = 2) (n : Fin 240) :
    decodeCs n w =
      .btCsSquares n (Layout.csqC0.get w) (Layout.csqC1.get w) (Layout.csqC2.get w) (Layout.csqC3 w) := by
  rw [decodeCs, if_neg (by rw [h]; decide), if_neg (by rw [h]; decide), if_pos h]

theorem decodeCs_subMode_three {w : Word} (h : Layout.btSubMode.get w = 3) (n : Fin 240) :
    decodeCs n w = .btCsCardGramFg3 n (Layout.btFg.get w) (Layout.btCard6.get w) (Layout.btAdv.flag w) := by
  rw [decodeCs, if_neg (by rw [h]; decide), if_neg (by rw [h]; decide), if_neg (by rw [h]; decide)]

theorem subMode_cases : ∀ sub : BitVec 2, sub = 0 ∨ sub = 1 ∨ sub = 2 ∨ sub = 3 := by decide

/-! ## Assembled operands (R105)

An operand whose bits lie scattered in the word: its parts are fields, and they make it up. -/

theorem bits_append : ∀ b3 b2 b1 b0 : BitVec 1,
    (b3 ++ b2 ++ b1 ++ b0).extractLsb' 0 1 = b0 ∧ (b3 ++ b2 ++ b1 ++ b0).extractLsb' 1 1 = b1 ∧
    (b3 ++ b2 ++ b1 ++ b0).extractLsb' 2 1 = b2 ∧ (b3 ++ b2 ++ b1 ++ b0).extractLsb' 3 1 = b3 := by decide

theorem append_bits : ∀ v : BitVec 4,
    v.extractLsb' 3 1 ++ v.extractLsb' 2 1 ++ v.extractLsb' 1 1 ++ v.extractLsb' 0 1 = v := by decide

/-- The library's law, at the width the operand is written with. -/
theorem append_bit_three (v : BitVec 4) : v.extractLsb' 3 1 ++ v.extractLsb' 0 3 = v :=
  BitVec.extractLsb'_append_extractLsb'

/-- The library's law, at the width the operand is written with. -/
theorem append_bit_two (v : BitVec 3) : v.extractLsb' 2 1 ++ v.extractLsb' 0 2 = v :=
  BitVec.extractLsb'_append_extractLsb'

theorem fgbgBg_parts (w : Word) :
    (Layout.fgbgBg w).extractLsb' 0 1 = Layout.btBg0.get w ∧ (Layout.fgbgBg w).extractLsb' 1 1 = Layout.btBg1.get w ∧
    (Layout.fgbgBg w).extractLsb' 2 1 = Layout.btBg2.get w ∧ (Layout.fgbgBg w).extractLsb' 3 1 = Layout.btBg3.get w :=
  bits_append _ _ _ _

theorem csqC3_parts (w : Word) :
    (Layout.csqC3 w).extractLsb' 0 2 = Layout.csqC3Lo.get w ∧ (Layout.csqC3 w).extractLsb' 2 1 = Layout.csqC3Hi.get w :=
  ⟨BitVec.extractLsb'_append_eq_right, BitVec.extractLsb'_append_eq_left⟩

theorem mobFg_parts (w : Word) :
    (Layout.mobFg w).extractLsb' 0 3 = Layout.mobAFg.get w ∧ (Layout.mobFg w).extractLsb' 3 1 = Layout.mobAFg3.get w :=
  ⟨BitVec.extractLsb'_append_eq_right, BitVec.extractLsb'_append_eq_left⟩

/-! ## Decode of encode -/

@[simp] theorem btSubMode_encodeCsCommon (fg : BitVec 3) (sub : BitVec 2) (adv : Bool) :
    Layout.btSubMode.get (encodeCsCommon fg sub adv) = sub := by
  simp (disch := decide) [encodeCsCommon]

@[simp] theorem btFg_encodeCsCommon (fg : BitVec 3) (sub : BitVec 2) (adv : Bool) :
    Layout.btFg.get (encodeCsCommon fg sub adv) = fg := by
  simp (disch := decide) [encodeCsCommon]

@[simp] theorem btAdv_encodeCsCommon (fg : BitVec 3) (sub : BitVec 2) (adv : Bool) :
    Layout.btAdv.flag (encodeCsCommon fg sub adv) = adv := by
  simp (disch := decide) [encodeCsCommon]

/-- The common part leaves the bits of a card free, 6 or 8 of them. -/
@[simp] theorem btCard_encodeCsCommon (fg : BitVec 3) (sub : BitVec 2) (adv : Bool) :
    Layout.btCard6.get (encodeCsCommon fg sub adv) = 0 ∧ Layout.btCard8.get (encodeCsCommon fg sub adv) = 0 := by
  simp (disch := decide) [encodeCsCommon]

theorem decodeFgbg_encodeWord {n : Fin 240} {fg : BitVec 3} {card : BitVec 6} {bg : BitVec 4} {gram : Bool} {w : Word}
    (h : encodeWord (.btFgbgCard n fg card bg gram) = some w) : decodeFgbg n w = .btFgbgCard n fg card bg gram := by
  cases h
  simp (disch := decide) [decodeFgbg, Layout.fgbgBg, append_bits]

theorem decodeCs_encodeWord_grom {n : Fin 240} {fg : BitVec 3} {card : BitVec 8} {adv : Bool} {w : Word}
    (h : encodeWord (.btCsCardGrom n fg card adv) = some w) : decodeCs n w = .btCsCardGrom n fg card adv := by
  cases h
  rw [decodeCs_subMode_zero (by simp (disch := decide))]
  simp (disch := decide)

theorem decodeCs_encodeWord_gram {n : Fin 240} {fg : BitVec 3} {card : BitVec 6} {adv : Bool} {w : Word}
    (h : encodeWord (.btCsCardGram n fg card adv) = some w) : decodeCs n w = .btCsCardGram n fg card adv := by
  cases h
  rw [decodeCs_subMode_one (by simp (disch := decide))]
  simp (disch := decide)

theorem decodeCs_encodeWord_gramFg3 {n : Fin 240} {fg : BitVec 3} {card : BitVec 6} {adv : Bool} {w : Word}
    (h : encodeWord (.btCsCardGramFg3 n fg card adv) = some w) : decodeCs n w = .btCsCardGramFg3 n fg card adv := by
  cases h
  rw [decodeCs_subMode_three (by simp (disch := decide))]
  simp (disch := decide)

theorem decodeCs_encodeWord_squares {n : Fin 240} {c0 c1 c2 c3 : BitVec 3} {w : Word}
    (h : encodeWord (.btCsSquares n c0 c1 c2 c3) = some w) : decodeCs n w = .btCsSquares n c0 c1 c2 c3 := by
  cases h
  rw [decodeCs_subMode_two (by simp (disch := decide))]
  simp (disch := decide) [Layout.csqC3, append_bit_two]

/-- A well-formed word instruction stands in a cell, where its word decodes to it in the mode it is read in. -/
theorem exists_cell_decodeCell_encode {i : Instr} {modeq : Bool} (hw : i.wf = true) (hi : i ≠ .renderFrame)
    (hr : i.readIn modeq = true) :
    ∃ (c : Cell) (w : Word), encode i = some (c.addr, w) ∧ decodeCell modeq c w = i := by
  cases i with
  | btFgbgCard n fg card bg gram =>
    obtain rfl : modeq = false := by simpa [Instr.readIn] using hr
    exact ⟨.backtab n, _, rfl, decodeFgbg_encodeWord rfl⟩
  | btCsCardGrom n fg card adv =>
    obtain rfl : modeq = true := hr
    exact ⟨.backtab n, _, rfl, decodeCs_encodeWord_grom rfl⟩
  | btCsCardGram n fg card adv =>
    obtain rfl : modeq = true := hr
    exact ⟨.backtab n, _, rfl, decodeCs_encodeWord_gram rfl⟩
  | btCsCardGramFg3 n fg card adv =>
    obtain rfl : modeq = true := hr
    exact ⟨.backtab n, _, rfl, decodeCs_encodeWord_gramFg3 rfl⟩
  | btCsSquares n c0 c1 c2 c3 =>
    obtain rfl : modeq = true := hr
    exact ⟨.backtab n, _, rfl, decodeCs_encodeWord_squares rfl⟩
  | mobX k x intr visb xsize => exact ⟨.mobX k, _, rfl, by simp (disch := decide) [decodeCell]⟩
  | mobY k y yres ysize xflip yflip => exact ⟨.mobY k, _, rfl, by simp (disch := decide) [decodeCell]⟩
  | mobA k fg card gram prio =>
    exact ⟨.mobA k, _, rfl, by simp (disch := decide) [decodeCell, Layout.mobFg, append_bit_three]⟩
  | mobColl k mob bg border => exact ⟨.mobColl k, _, rfl, by simp (disch := decide) [decodeCell]⟩
  | cstkEntry slot color => exact ⟨.cstk slot, _, rfl, by simp (disch := decide) [decodeCell]⟩
  | borderColor color => exact ⟨.border, _, rfl, by simp (disch := decide) [decodeCell]⟩
  | hdelay d => exact ⟨.hdelay, _, rfl, by simp (disch := decide) [decodeCell]⟩
  | vdelay d => exact ⟨.vdelay, _, rfl, by simp (disch := decide) [decodeCell]⟩
  | extend left top => exact ⟨.extend, _, rfl, by simp (disch := decide) [decodeCell]⟩
  | graphicRow a row =>
    obtain ⟨o, -, rfl⟩ := Cell.ofAddr_graphic hw
    exact ⟨.graphic o, _, rfl, by simp (disch := decide) [decodeCell]⟩
  | renderFrame => exact absurd rfl hi

/-- Settles O51: the instruction's cell is read back from its address (R32), and its fields from its word. -/
theorem decodeOfEncodeIsIdentity : Obligations.DecodeOfEncodeIsIdentity := by
  intro i modeq hw hi hr
  obtain ⟨c, w, he, hd⟩ := exists_cell_decodeCell_encode hw hi hr
  exact ⟨c.addr, w, he, decode_eq_ok_iff.mpr ⟨c, rfl, hd⟩⟩

/-! ## Encode of decode (R106) -/

/-- Address and word of an instruction that has both. -/
theorem encode_eq_some {i : Instr} {a : Nat} {w : Word} (ha : encodeAddr i = some a) (hw : encodeWord i = some w) :
    encode i = some (a, w) := by
  rw [encode, ha, hw]

/-- What a cell decodes to is well-formed, read in that mode, and stands at the cell's address. -/
theorem decodeCell_wf_readIn_addr (m : Bool) (c : Cell) (w : Word) :
    (decodeCell m c w).wf = true ∧ (decodeCell m c w).readIn m = true ∧
      encodeAddr (decodeCell m c w) = some c.addr := by
  cases c with
  | backtab n =>
    cases m with
    | false => exact ⟨rfl, rfl, rfl⟩
    | true =>
      show (decodeCs n w).wf = true ∧ (decodeCs n w).readIn true = true ∧ encodeAddr (decodeCs n w) = some _
      unfold decodeCs
      split_ifs <;> exact ⟨rfl, rfl, rfl⟩
  | mobX | mobY | mobA | mobColl | cstk | border | hdelay | vdelay | extend => exact ⟨rfl, rfl, rfl⟩
  | graphic o =>
    refine ⟨?_, rfl, rfl⟩
    simp only [decodeCell, Instr.wf, isGraphicAddr, Bool.and_eq_true, decide_eq_true_eq]
    omega

theorem encodeWord_decodeFgbg (n : Fin 240) (w : Word) :
    encodeWord (decodeFgbg n w) = some (w &&& usedBits (decodeFgbg n w)) := by
  obtain ⟨h0, h1, h2, h3⟩ := fgbgBg_parts w
  simp only [decodeFgbg, encodeWord, h0, h1, h2, h3, Field.put_get, Field.putFlag_flag, ← BitVec.and_or_distrib_left]
  rfl

/-- The sub-mode is not stored in the instruction: its constructor says what the word's two bits were (R94). -/
theorem encodeWord_decodeCs (n : Fin 240) (w : Word) :
    encodeWord (decodeCs n w) = some (w &&& usedBits (decodeCs n w)) := by
  obtain h | h | h | h := subMode_cases (Layout.btSubMode.get w)
  · rw [decodeCs_subMode_zero h, encodeWord, ← h]
    simp only [encodeCsCommon, Field.put_get, Field.putFlag_flag, ← BitVec.and_or_distrib_left]
    rfl
  · rw [decodeCs_subMode_one h, encodeWord, ← h]
    simp only [encodeCsCommon, Field.put_get, Field.putFlag_flag, ← BitVec.and_or_distrib_left]
    rfl
  · obtain ⟨hLo, hHi⟩ := csqC3_parts w
    rw [decodeCs_subMode_two h, encodeWord, ← h, hLo, hHi]
    simp only [Field.put_get, ← BitVec.and_or_distrib_left]
    rfl
  · rw [decodeCs_subMode_three h, encodeWord, ← h]
    simp only [encodeCsCommon, Field.put_get, Field.putFlag_flag, ← BitVec.and_or_distrib_left]
    rfl

theorem encodeWord_decodeCell (m : Bool) (c : Cell) (w : Word) :
    encodeWord (decodeCell m c w) = some (w &&& usedBits (decodeCell m c w)) := by
  cases c with
  | backtab n =>
    cases m with
    | false => exact encodeWord_decodeFgbg n w
    | true => exact encodeWord_decodeCs n w
  | mobA i =>
    obtain ⟨hLo, hHi⟩ := mobFg_parts w
    simp only [decodeCell, encodeWord, hLo, hHi, Field.put_get, Field.putFlag_flag, ← BitVec.and_or_distrib_left]
    rfl
  | mobX | mobY | mobColl | cstk | border | hdelay | vdelay | extend | graphic =>
    simp only [decodeCell, encodeWord, Field.put_get, Field.putFlag_flag, ← BitVec.and_or_distrib_left]
    rfl

/-- Settles O52: each field put back keeps the word's bits of that field, and the fields of a format make up its used
bits. -/
theorem encodeOfDecodeKeepsUsedBits : Obligations.EncodeOfDecodeKeepsUsedBits := by
  intro modeq a w i h
  obtain ⟨c, rfl, rfl⟩ := decode_eq_ok_iff.mp h
  obtain ⟨hw, hr, ha⟩ := decodeCell_wf_readIn_addr modeq c w
  exact ⟨hw, hr, encode_eq_some ha (encodeWord_decodeCell modeq c w)⟩

end Sys2Proof
end

section
/-! Encoding (30_encoding.md), what every word decodes to, in bits of the word: R105's sums of shifts for the assembled
operands, then cell by cell. -/

namespace Sys2Proof

open Sys2Proof.Claims Sys2Proof.Machine

/-! ## R105's sums of shifts -/

/-- Bit j of four bits in a row. -/
theorem getLsbD_append_bits (b3 b2 b1 b0 : BitVec 1) (j : Nat) :
    (b3 ++ b2 ++ b1 ++ b0).getLsbD j =
      if j < 1 then b0.getLsbD j else if j - 1 < 1 then b1.getLsbD (j - 1)
      else if j - 1 - 1 < 1 then b2.getLsbD (j - 1 - 1) else b3.getLsbD (j - 1 - 1 - 1) := by
  simp only [BitVec.getLsbD_append]

theorem fgbgBg_eq_shifts (w : Word) :
    Layout.fgbgBg w = (((w >>> 9) &&& 3#16) ||| ((w >>> 10) &&& 0xC#16)).setWidth 4 := by
  refine BitVec.eq_of_getLsbD_eq fun j hj => ?_
  rw [show (Layout.fgbgBg w).getLsbD j = _ from getLsbD_append_bits _ _ _ _ j]
  obtain rfl | rfl | rfl | rfl : j = 0 ∨ j = 1 ∨ j = 2 ∨ j = 3 := by omega
  all_goals simp [Field.get, Layout.btBg0, Layout.btBg1, Layout.btBg2, Layout.btBg3]

theorem csqC3_eq_shifts (w : Word) :
    Layout.csqC3 w = (((w >>> 9) &&& 3#16) ||| ((w >>> 11) &&& 4#16)).setWidth 3 := by
  refine BitVec.eq_of_getLsbD_eq fun j hj => ?_
  rw [show (Layout.csqC3 w).getLsbD j = _ from BitVec.getLsbD_append]
  obtain rfl | rfl | rfl : j = 0 ∨ j = 1 ∨ j = 2 := by omega
  all_goals simp [Field.get, Layout.csqC3Lo, Layout.csqC3Hi]

theorem mobFg_eq_shifts (w : Word) :
    Layout.mobFg w = ((w &&& 7#16) ||| ((w >>> 9) &&& 8#16)).setWidth 4 := by
  refine BitVec.eq_of_getLsbD_eq fun j hj => ?_
  rw [show (Layout.mobFg w).getLsbD j = _ from BitVec.getLsbD_append]
  obtain rfl | rfl | rfl | rfl : j = 0 ∨ j = 1 ∨ j = 2 ∨ j = 3 := by omega
  all_goals simp [Field.get, Layout.mobAFg, Layout.mobAFg3]

/-! ## Cell by cell -/

/-- A BACKTAB word of color-stack mode decodes as its sub-mode says. -/
theorem decode_backtab_colorStack (n : Fin 240) (w : Word) :
    decode true (0x200 + n.val) w = .ok (decodeCs n w) := decode_cell_addr true (.backtab n) w

/-- Settles O55: BACKTAB's cell is found at R110's address, and w[12:11] selects the format in color-stack mode. -/
theorem backtabWordsDecode : Obligations.BacktabWordsDecode := by
  intro n w
  refine ⟨?_, fun h => ?_, fun h => ?_, fun h => ?_, fun h => ?_⟩
  · rw [← fgbgBg_eq_shifts]
    exact decode_cell_addr false (.backtab n) w
  · rw [decode_backtab_colorStack, decodeCs_subMode_zero h]
    rfl
  · rw [decode_backtab_colorStack, decodeCs_subMode_one h]
    rfl
  · rw [decode_backtab_colorStack, decodeCs_subMode_three h]
    rfl
  · rw [decode_backtab_colorStack, decodeCs_subMode_two h, ← csqC3_eq_shifts]
    rfl

/-- Settles O56: each cell is found at its address (R32) and its fields are the layout's. -/
theorem registerWordsDecode : Obligations.RegisterWordsDecode := by
  intro modeq w
  refine ⟨fun i => ⟨?_, ?_, ?_, ?_⟩, fun k => ?_, ?_, ?_, ?_, ?_, fun a h0 h1 => ?_⟩
  · exact decode_cell_addr modeq (.mobX i) w
  · exact decode_cell_addr modeq (.mobY i) w
  · rw [← mobFg_eq_shifts]
    exact decode_cell_addr modeq (.mobA i) w
  · exact decode_cell_addr modeq (.mobColl i) w
  · exact decode_cell_addr modeq (.cstk k) w
  · exact decode_cell_addr modeq .border w
  · exact decode_cell_addr modeq .hdelay w
  · exact decode_cell_addr modeq .vdelay w
  · exact decode_cell_addr modeq .extend w
  · obtain ⟨o, -, rfl⟩ := Cell.ofAddr_graphic (a := a) (by simp [isGraphicAddr, h0, h1])
    exact decode_cell_addr modeq (.graphic o) w

/-- Settles O54: each word is read at its cell, and its fields are evaluated. -/
theorem specWordsDecode : Obligations.SpecWordsDecode :=
  ⟨decode_cell_addr false (.backtab 0) _, decode_cell_addr false (.backtab 239) _, decode_cell_addr true (.backtab 0) _,
    decode_cell_addr true (.backtab 0) _, decode_cell_addr true (.backtab 0) _, decode_cell_addr true (.backtab 0) _,
    decode_cell_addr true (.mobX 0) _, decode_cell_addr true (.mobY 0) _, decode_cell_addr true (.mobA 0) _⟩

end Sys2Proof
end

section
/-! Encoding (30_encoding.md), one word at a time: the control words, the words of a MOB record, and the operand words,
which act by the use they were fetched for. -/

namespace Sys2Proof.Machine

open Sys2Proof.Claims

/-! ## Latches and the MOB record -/

/-- Settles O1: the meanings of the three control words are these updates (R242). -/
theorem controlWordsSetLatches : Obligations.ControlWordsSetLatches := fun _ _ _ _ => ⟨rfl, rfl, rfl⟩

/-- Settles O20: the meanings of the three words are these updates of the record (R181). -/
theorem mobWordsSetRecordFields : Obligations.MobWordsSetRecordFields := fun _ _ =>
  ⟨fun _ _ _ _ => rfl, fun _ _ _ _ _ => rfl, fun _ _ _ _ => rfl⟩

/-! ## Nothing stops (R106, R107, R260) -/

theorem exec_renderFrame_idle {s : State} (h : s.seq = .idle) :
    exec .renderFrame s = .next { latch s with seq := .rendering 0 } := by
  rw [exec, execRenderFrame, h]

/-- In IDLE every move of the host answers a next state: the command is accepted there (R240, R266). -/
theorem hostTurn_next {s : State} (h : s.seq = .idle) : ∃ t, hostTurn s = .next t := by
  unfold hostTurn
  split
  next => exact ⟨_, rfl⟩
  next => exact ⟨_, rfl⟩
  next => exact ⟨_, rfl⟩
  next rest _ => exact ⟨_, exec_renderFrame_idle (s := { s with inbox := rest }) h⟩

theorem step_next (s : State) : ∃ t, step s = .next t := by
  cases h : s.seq with
  | idle => rw [step_idle h]; exact hostTurn_next h
  | rendering n => exact ⟨_, step_line h⟩
  | finalizing => exact ⟨_, step_finalizing h⟩

/-- Settles O6: a word completes with its operation under way or without, and so does a step in each state of SEQ. -/
theorem nothingStops : Obligations.NothingStops := ⟨fun _ s h => exec_word_next h s, step_next⟩

/-! ## Painting one card column (R153, R163, R230) -/

/-- Painting a card column paints its eight pixels and leaves every other column alone. -/
theorem paintCard_cardPainted (col : Nat) (px : Nat → Color) (tag : Nat → Bool) (s : State) :
    CardPainted s (paintCard col px tag s) col px tag := by
  intro k x hx
  rw [paintCard_color _ _ _ _ _ _ hx, paintCard_mask _ _ _ _ _ _ hx]
  refine ⟨fun b m hb hm h => ?_, fun h => ?_⟩
  · rw [(cardPixel_eq_some s.hd col x b).mpr ⟨hb, by unfold bgx; omega⟩]
    exact ⟨rfl, rfl⟩
  · rw [(cardPixel_eq_none s.hd col x).mpr h]
    exact ⟨rfl, rfl⟩

/-! ## A color-stack entry, by its use (R132, R161) -/

theorem exec_cstkEntry (slot : Fin 4) (color : PalIdx) (s : State) :
    exec (.cstkEntry slot color) s = .next (stackWord color s) := rfl

section
variable {s : State} (color : PalIdx)

theorem stackWord_cardBackground {col : Fin 20} (h : s.use = .cardBackground col) :
    stackWord color s = { s with cacheBg := s.cacheBg.set col.val color col.isLt, use := .nothing } := by
  rw [stackWord, h]

theorem stackWord_squareOverride (h : s.use = .squareOverride) :
    stackWord color s = { s with pal7 := paletteColor s.params color, use := .nothing } := by
  rw [stackWord, h]
  rfl

theorem stackWord_other (hb : ∀ col, s.use ≠ .cardBackground col) (hq : s.use ≠ .squareOverride) :
    stackWord color s = s := by
  unfold stackWord
  split
  next col h => exact absurd h (hb col)
  next h => exact absurd h hq
  all_goals rfl

end

/-- Settles O18: one equation for each use; an entry for a card's background is set in that column's place only. -/
theorem stackEntryGoesWhereItIsRead : Obligations.StackEntryGoesWhereItIsRead := by
  intro slot color s
  rw [exec_cstkEntry]
  refine ⟨fun col h => ?_, fun h => ?_, fun hb hq => ?_⟩
  · rw [stackWord_cardBackground color h]
    refine ⟨_, rfl, rfl, fun c => ?_⟩
    simp [Vector.getElem_set, Fin.ext_iff, eq_comm]
  · rw [stackWord_squareOverride color h]
  · rw [stackWord_other color hb hq]

/-! ## A graphic row, by its use (R152, R187 to R189) -/

theorem exec_graphicRow (a : Nat) (row : Byte) (s : State) :
    exec (.graphicRow a row) s = .next (rowArrives row s) := rfl

section
variable {s : State} (g : Byte)

theorem rowArrives_cardRow {col : Fin 20} {fg bg : PalIdx} (h : s.use = .cardRow col fg bg) :
    rowArrives g s = { paintCardRow col.val g fg bg s with use := .nothing } := by
  rw [rowArrives, h]

theorem rowArrives_mobRow {to0 to1 : Bool} (h : s.use = .mobRow to0 to1) :
    rowArrives g s =
      { s with
        unit := { s.unit with
          b0 := if to0 then (if s.unit.xflip then rev g else g) else s.unit.b0
          b1 := if to1 then (if s.unit.xflip then rev g else g) else s.unit.b1 }
        use := .nothing } := by
  rw [rowArrives, h]

theorem rowArrives_other (hc : ∀ col fg bg, s.use ≠ .cardRow col fg bg)
    (hm : ∀ to0 to1, s.use ≠ .mobRow to0 to1) : rowArrives g s = s := by
  unfold rowArrives
  split
  next col fg bg h => exact absurd h (hc col fg bg)
  next to0 to1 h => exact absurd h (hm to0 to1)
  all_goals rfl

end

/-- Settles O19: one equation for each use; a row for a card is painted in its column. -/
theorem graphicRowGoesWhereItIsRead : Obligations.GraphicRowGoesWhereItIsRead := by
  intro a row s
  rw [exec_graphicRow]
  refine ⟨fun col fg bg h => ?_, fun to0 to1 h => ?_, fun hc hm => ?_⟩
  · rw [rowArrives_cardRow row h]
    exact ⟨_, rfl, rfl, paintCard_cardPainted col.val _ _ s⟩
  · rw [rowArrives_mobRow row h]
  · rw [rowArrives_other row hc hm]

end Sys2Proof.Machine
end

section
/-! Encoding (30_encoding.md), the color stack pointer over a card row: on sub-row 0 an F_BT_CS word moves CSP as its
ADV bit asks, no other word of the line does, and a row of 20 words moves it by the number of its advances. -/

namespace Sys2Proof.Machine

open Sys2Proof.Claims

/-! ## CSP after one word (R161, R164) -/

theorem csCard_csp (col : Fin 20) (fg : PalIdx) (gram : Bool) (card : Nat) (adv : Bool) {sub : Nat} (h : sub = 0)
    (s : State) : (csCard col fg gram card adv sub s).csp = if adv then nextCsp s.csp else s.csp := by
  simp only [csCard, fetchRow_cardRow, if_pos h, paintCardRow_csp]
  rw [cacheCard_eq]

/-- An F_BT_CS word on sub-row 0 advances CSP exactly if its ADV is set. -/
theorem after_csOperands_csp {i : Instr} {n : Fin 240} {fg : PalIdx} {gram : Bool} {card : Nat} {adv : Bool}
    (h : csOperands i = some (n, fg, gram, card, adv)) {s : State} {bl : Nat} (hb : s.bgLine = some bl)
    (h0 : bl % 8 = 0) : (after i s).csp = if adv then nextCsp s.csp else s.csp := by
  cases i with
  | btCsCardGrom | btCsCardGram | btCsCardGramFg3 =>
    cases h
    simp only [after, exec, execBtCsCardGrom, execBtCsCardGram, execBtCsCardGramFg3, hb]
    exact csCard_csp _ _ _ _ _ h0 s
  | btFgbgCard | btCsSquares | mobX | mobY | mobA | mobColl | cstkEntry | borderColor | hdelay | vdelay | extend
  | graphicRow | renderFrame => cases h

theorem after_btCsSquares_csp (n : Fin 240) (c0 c1 c2 c3 : BitVec 3) (s : State) :
    (after (.btCsSquares n c0 c1 c2 c3) s).csp = s.csp := by
  simp only [after, exec, execBtCsSquares]
  cases s.bgLine with
  | none => rfl
  | some bl => rfl

/-- Outside sub-mode 2 a word of color-stack mode is F_BT_CS, and its ADV is w[13] (R92, R94). -/
theorem csOperands_decodeCs {w : Word} (h : w.extractLsb' 11 2 ≠ 2) (n : Fin 240) :
    ∃ fg gram card, csOperands (decodeCs n w) = some (n, fg, gram, card, w.getLsbD 13) := by
  obtain h0 | h1 | h2 | h3 := subMode_cases (Layout.btSubMode.get w)
  · rw [decodeCs_subMode_zero h0]; exact ⟨_, _, _, rfl⟩
  · rw [decodeCs_subMode_one h1]; exact ⟨_, _, _, rfl⟩
  · exact absurd h2 h
  · rw [decodeCs_subMode_three h3]; exact ⟨_, _, _, rfl⟩

/-- A BACKTAB cell on sub-row 0 moves CSP by what `advances` counts for it. -/
theorem runCell_backtab_csp {s : State} {bl : Nat} (hm : s.modeq = true) (hb : s.bgLine = some bl) (h0 : bl % 8 = 0)
    (n : Fin 240) :
    (runCell s (.backtab n)).csp =
      if (s.mem.read (0x200 + n.val)).extractLsb' 11 2 ≠ 2 ∧ (s.mem.read (0x200 + n.val)).getLsbD 13
      then nextCsp s.csp else s.csp := by
  have hi : s.instrAt (.backtab n) = decodeCs n (s.mem.read (0x200 + n.val)) := by
    rw [State.instrAt, hm]; rfl
  rw [runCell, hi]
  generalize s.mem.read (0x200 + n.val) = w
  by_cases h : w.extractLsb' 11 2 = 2
  · rw [decodeCs_subMode_two h, after_btCsSquares_csp, if_neg fun hc => hc.1 h]
  · obtain ⟨fg, gram, card, ho⟩ := csOperands_decodeCs h n
    rw [after_csOperands_csp ho hb h0]
    simp only [h, ne_eq, not_false_eq_true, true_and]

/-! ## CSP after a card row (R160, R165) -/

/-- The advances of a row are read from memory alone. -/
theorem advances_congr {s t : State} (h : t.mem = s.mem) (row0 k : Nat) : advances t row0 k = advances s row0 k := by
  induction k with
  | zero => rfl
  | succ k ih => rw [advances, advances, ih, h]

theorem backgroundRow_length (bl : Nat) : (backgroundRow bl).length = 20 := by simp [backgroundRow]

theorem backgroundRow_getElem (bl : Nat) {k : Nat} (h : k < (backgroundRow bl).length) :
    ((backgroundRow bl)[k]).val = 20 * (bl / 8 % 12) + k := by
  simp [backgroundRow, backtabCell]

/-- After the first `k` cards of the row CSP has moved by their advances: card by card, as `advances` counts. -/
theorem runBacktab_take_csp {s : State} {bl : Nat} (hm : s.modeq = true) (hb : s.bgLine = some bl) (h0 : bl % 8 = 0)
    (hc : 0x28 ≤ s.csp ∧ s.csp ≤ 0x2B) (k : Nat) (hk : k ≤ 20) :
    ((((backgroundRow bl).take k).map Cell.backtab).foldl runCell s).csp =
      0x28 + (s.csp - 0x28 + advances s (0x200 + 20 * (bl / 8 % 12)) k) % 4 := by
  induction k with
  | zero =>
    simp only [List.take_zero, List.map_nil, List.foldl_nil, advances]
    omega
  | succ k ih =>
    have hlen : k < (backgroundRow bl).length := by rw [backgroundRow_length]; omega
    have frame := runBacktab_paintFrame ((backgroundRow bl).take k) s
    have ih := ih (by omega)
    rw [List.take_succ_eq_append_getElem hlen, List.map_append, List.foldl_append, List.map_singleton, List.foldl_cons,
      List.foldl_nil]
    generalize (((backgroundRow bl).take k).map Cell.backtab).foldl runCell s = t at frame ih
    have hmt : t.modeq = true := by rw [frame.same]; exact hm
    have hbt : t.bgLine = some bl := by rw [frame.same]; exact hb
    rw [runCell_backtab_csp hmt hbt h0, frame.mem, backgroundRow_getElem bl hlen, ← Nat.add_assoc, advances, ih,
      nextCsp]
    split <;> omega

/-- CSP after the background of a line on sub-row 0, from 0x28 on background line 0 (R160). -/
theorem background_csp {s : State} {bl : Nat} (hw : InWindow s bl) (hm : s.modeq = true) (h0 : bl % 8 = 0)
    (hc : 0x28 ≤ s.csp ∧ s.csp ≤ 0x2B) :
    (background s).csp =
      0x28 + ((if bl = 0 then 0 else s.csp - 0x28) + advances s (0x200 + 20 * (bl / 8 % 12)) 20) % 4 := by
  have whole : (backgroundRow bl).take 20 = backgroundRow bl :=
    List.take_of_length_le (backgroundRow_length bl).le
  rw [background_inWindow hw, backgroundCells_eq, ← whole]
  by_cases hz : bl = 0
  · rw [if_pos ⟨hm, hz⟩, if_pos hz]
    have reset := runBacktab_take_csp (s := resetCsp s) (bl := bl) hm (bgLine_eq_some_iff.mpr hw) h0
      (by rw [resetCsp_csp]; decide) 20 (le_refl 20)
    rw [resetCsp_csp, Nat.sub_self, advances_congr (resetCsp_mem s)] at reset
    exact reset
  · rw [if_neg fun h => hz h.2, if_neg hz]
    exact runBacktab_take_csp hm (bgLine_eq_some_iff.mpr hw) h0 hc 20 (le_refl 20)

theorem border_csp (s : State) : (border s).csp = s.csp := by
  show (after (.borderColor _) s).csp = s.csp
  simp only [after, exec, execBorderColor]
  cases s.line with
  | none => rfl
  | some n => dsimp only; rw [paintBorder_frame]

/-- In a LINE only the background moves CSP. -/
theorem lineStep_csp (n : Fin 112) (s : State) : (lineStep n s).csp = (background (border s)).csp := by
  rw [lineStep_eq, clearBuffers_csp, copyOut_csp, renderedLine, border_csp, (sprites_mobFrame _).same]

/-- Settles O43: the border word before the background keeps the window, CSP and memory, the background counts the
advances of its row, and what follows keeps CSP. -/
theorem stackPointerCountsAdvances : Obligations.StackPointerCountsAdvances := by
  intro s bl r hw hm hr h0 h1
  obtain ⟨line, hs, hline, hbl⟩ := hw
  have f := border_lineFrame s
  have hw' : InWindow (border s) bl := ⟨line, f.seq.trans hs, by rw [f.vd]; exact hline, hbl⟩
  refine ⟨_, step_line hs, ?_⟩
  show (lineStep line s).csp = _
  rw [lineStep_csp, background_csp hw' (f.modeq.trans hm) (by omega) (by rw [border_csp]; exact ⟨h0, h1⟩), border_csp,
    advances_congr (border_paintFrame s).mem, show bl / 8 % 12 = r by omega]

end Sys2Proof.Machine
end

section
/-! O8, O9: the palette lookup (R130, R131) and the bit reversal (R135). -/

namespace Sys2Proof.Machine

/-! ## The palette lookup (R130, R131) -/

theorem paletteColor_zero (p : Params) : paletteColor p 0 = Config.palette0 := if_pos rfl

theorem colorOf_seven (s : State) : s.colorOf 7 = s.pal7 := if_pos rfl

theorem colorOf_of_ne_seven (s : State) {n : PalIdx} (h : n ≠ 7) : s.colorOf n = paletteColor s.params n := if_neg h

/-- Settles O8: slot 7 reads PAL7, any other slot the table, whose entry 0 is fixed and whose others are the open
parameter's. -/
theorem colorLookup : Obligations.ColorLookup := by
  intro s n
  refine ⟨?slot7, colorOf_of_ne_seven s, ?color0, paletteColor_zero s.params, paletteColor_of_succ s.params⟩
  case slot7 =>
    rintro rfl
    exact colorOf_seven s
  case color0 => exact (colorOf_of_ne_seven s (by decide)).trans (paletteColor_zero s.params)

/-! ## Bit reversal (R135) -/

/-- R135 bit by bit: each of the eight one-bit pieces of the concatenation stands in its mirrored place. -/
theorem rev_getLsbD (b : Byte) {j : Nat} (hj : j < 8) : (rev b).getLsbD j = b.getLsbD (7 - j) := by
  simp only [rev, BitVec.getLsbD_append, BitVec.getLsbD_extractLsb']
  interval_cases j <;> simp

/-- Mirroring twice brings bit j to 7 - (7 - j) = j. -/
theorem rev_rev (b : Byte) : rev (rev b) = b := by
  apply BitVec.eq_of_getLsbD_eq
  intro j hj
  rw [rev_getLsbD _ hj, rev_getLsbD _ (by omega), Nat.sub_sub_self (by omega)]

/-- Settles O9: the bits are read off the concatenation, and the mirror image of a mirror image is the byte. -/
theorem revReversesBits : Obligations.RevReversesBits := by
  intro b
  exact ⟨fun _ => rev_getLsbD b, rev_rev b⟩

end Sys2Proof.Machine
end

section
/-! O10, O11: the border (R140 to R144). -/

namespace Sys2Proof.Machine

/-- R142 and R143 in natural numbers: the two bands, then the two margins. -/
theorem inBorder_iff (vd hd n x : Nat) (et el : Bool) :
    inBorder vd hd et el (n : Int) x = true ↔
      n < vd + 8 * et.toNat ∨ vd + 96 ≤ n ∨ x < hd + 16 * el.toNat ∨ hd + 320 ≤ x := by
  simp only [inBorder, fullWidth, Bool.or_eq_true, decide_eq_true_iff]
  omega

theorem exec_borderColor_of_rendering {s : State} {n : Fin 112} (h : s.seq = .rendering n) (c : BitVec 4) :
    exec (.borderColor c) s = .next (paintBorder (n.val : Int) c s) := by
  simp only [exec, execBorderColor, State.line, h]

theorem paintBorder_color {line : Int} (h0 : 0 ≤ line) (h1 : line ≤ 111) (c : PalIdx) (s : State) (k : Fin 2)
    (x : Nat) (hx : x < 352) :
    ((paintBorder line c s).cbuf.get k)[x] =
      if inBorder s.vd s.hd s.et s.el line x then s.colorOf c else (s.cbuf.get k)[x] := by
  simp [paintBorder_inside h0 h1]

theorem paintBorder_mask {line : Int} (h0 : 0 ≤ line) (h1 : line ≤ 111) (c : PalIdx) (s : State) (k : Fin 2)
    (x : Nat) (hx : x < 352) :
    ((paintBorder line c s).bbuf.get k)[x] =
      if inBorder s.vd s.hd s.et s.el line x then (s.bbuf.get k)[x] ||| borderBit else (s.bbuf.get k)[x] := by
  simp [paintBorder_inside h0 h1]

/-- Settles O10: the line being rendered is inside 0..111, so each cell of the buffers after the word is the painted or
the old one as its column is of the border or not. -/
theorem borderColorPaintsBorder : Obligations.BorderColorPaintsBorder := by
  intro c s n hs
  refine ⟨_, exec_borderColor_of_rendering hs c, paintBorder_frame _ c s, fun k x hx => ?_⟩
  have h0 : (0 : Int) ≤ n.val := by omega
  have h1 : (n.val : Int) ≤ 111 := by omega
  rw [← inBorder_iff, paintBorder_color h0 h1, paintBorder_mask h0 h1]
  exact ⟨fun border => ⟨if_pos border, if_pos border⟩, fun inside => ⟨if_neg inside, if_neg inside⟩⟩

/-- Settles O11: the guard of the border operation is R141's. -/
theorem borderOutsideDisplay : Obligations.BorderOutsideDisplay := by
  intro line c s outside
  exact if_pos outside

end Sys2Proof.Machine
end

section
/-! O12, O13: a background card in FG/BG mode (R150 to R153). -/

namespace Sys2Proof.Machine

open Sys2Proof.Claims

/-- R153 on any state: the card row is painted as one card column, in the color and with the tag of its graphic bits. -/
theorem paintCardRow_cardPainted (col : Nat) (g : Byte) (fg bg : PalIdx) (s : State) :
    CardPainted s (paintCardRow col g fg bg s) col
      (fun b => if g.getLsbD (7 - b) then s.colorOf fg else s.colorOf bg) (fun b => g.getLsbD (7 - b)) :=
  paintCard_cardPainted col _ _ s

/-- Settles O12: a card row is one card column painted by its graphic bits, and painting writes the buffers only. -/
theorem cardRowPaints : Obligations.CardRowPaints := by
  intro col g fg bg s
  exact ⟨rfl, paintCardRow_cardPainted col.val g fg bg s⟩

/-- The graphic row of a cell is its low byte (R103). -/
theorem growRow_get_read (s : State) (a : Nat) : Layout.growRow.get (s.mem.read a) = rowByte s a :=
  (BitVec.setWidth_eq_extractLsb' (by decide)).symm

/-- R150, R152: the loop body paints the graphic row at base + 8*card + sub and leaves no fetch under way. -/
theorem fgbgCard_eq (col : Fin 20) (fg : BitVec 3) (card : BitVec 6) (bg : BitVec 4) (gram : Bool) (sub : Nat)
    (s : State) :
    fgbgCard col fg card bg gram sub s =
      { paintCardRow col.val (rowByte s (graphicAddr gram card.toNat sub)) (fg.setWidth 4) bg s with
        use := .nothing } := by
  rw [fgbgCard, fetchRow_cardRow, growRow_get_read]

theorem exec_btFgbgCard_of_inWindow {s : State} {bl : Nat} (h : InWindow s bl) (n : Fin 240) (fg : BitVec 3)
    (card : BitVec 6) (bg : BitVec 4) (gram : Bool) :
    exec (.btFgbgCard n fg card bg gram) s = .next (fgbgCard (backtabCol n) fg card bg gram (bl % 8) s) := by
  rw [exec, execBtFgbgCard, bgLine_eq_some_iff.mpr h]

/-- Settles O13: inside the window the word is the loop body of its card column, which paints the fetched row. -/
theorem fgbgCardPaints : Obligations.FgbgCardPaints := by
  intro n fg card bg gram s bl h
  refine ⟨_, exec_btFgbgCard_of_inWindow h n fg card bg gram, ?_⟩
  rw [fgbgCard_eq]
  exact ⟨rfl, paintCardRow_cardPainted (backtabCol n).val _ _ bg s⟩

end Sys2Proof.Machine
end

section
/-! O17: the color stack pointer (R164). -/

namespace Sys2Proof.Machine

theorem nextCsp_eq (csp : Nat) : nextCsp csp = 0x28 + (csp - 0x28 + 1) % 4 := Nat.add_comm _ _

/-- Four advances go once round the four entries (R164). -/
theorem nextCsp_four {csp : Nat} (h0 : 0x28 ≤ csp) (h1 : csp ≤ 0x2B) :
    nextCsp (nextCsp (nextCsp (nextCsp csp))) = csp := by
  unfold nextCsp
  omega

/-- Settles O17: the update is R164's formula, and the four-cycle is that of the pointer. -/
theorem cspAdvanceCycles : Obligations.CspAdvanceCycles := by
  refine ⟨fun s => ?formula, fun s last => ?wrap, fun s h0 h1 => ?cycle⟩
  case formula => rw [cspAdvance, nextCsp_eq]
  case wrap => rw [cspAdvance_csp, last, nextCsp]
  case cycle => simp only [cspAdvance, nextCsp_four h0 h1]

end Sys2Proof.Machine
end

section
/-! O14, O15: a card in color-stack mode (R161, R162). -/

namespace Sys2Proof.Machine

open Sys2Proof.Claims

/-! ## The word (R92) -/

/-- FG with FG3 = 1, written as a concatenation and as an OR (R105). -/
theorem fg3_append (fg : BitVec 3) : 1#1 ++ fg = 8#4 ||| fg.setWidth 4 := by
  decide +revert

/-- Inside the window each of the three F_BT_CS rows is CS_CARD with its operands (R160). -/
theorem exec_csOperands_of_inWindow {i : Instr} {n : Fin 240} {fg : PalIdx} {gram : Bool} {card : Nat} {adv : Bool}
    (hi : csOperands i = some (n, fg, gram, card, adv)) {s : State} {bl : Nat} (h : InWindow s bl) :
    exec i s = .next (csCard (backtabCol n) fg gram card adv (bl % 8) s) := by
  have hb := bgLine_eq_some_iff.mpr h
  cases i with
  | btCsCardGrom => cases hi; rw [exec, execBtCsCardGrom, hb]
  | btCsCardGram => cases hi; rw [exec, execBtCsCardGram, hb]
  | btCsCardGramFg3 => cases hi; rw [exec, execBtCsCardGramFg3, hb, fg3_append]
  | btFgbgCard | btCsSquares | mobX | mobY | mobA | mobColl | cstkEntry | borderColor | hdelay | vdelay | extend
  | graphicRow | renderFrame => cases hi

/-! ## Step 1, the cache (R161) -/

/-- The state after step 1 of CS_CARD, from which step 2 reads the cache: step 1 runs on sub-row 0 only. -/
def csStepOne (col : Fin 20) (fg : PalIdx) (adv : Bool) (sub : Nat) (s : State) : State :=
  if sub = 0 then cacheCard col fg adv s else s

/-- Step 1 writes CSP, the cache and the model's own `use`, and nothing else. -/
theorem csStepOne_frame (col : Fin 20) (fg : PalIdx) (adv : Bool) (sub : Nat) (s : State) :
    ∃ csp cacheFg cacheBg use, csStepOne col fg adv sub s =
      { s with csp := csp, cacheFg := cacheFg, cacheBg := cacheBg, use := use } := by
  unfold csStepOne
  split
  · exact ⟨_, _, _, _, cacheCard_eq col fg adv s⟩
  · exact ⟨_, _, _, _, rfl⟩

/-- The background that step 1 caches is the stack entry at CSP as it stands after the advance. -/
theorem cacheCard_cacheBg (col : Fin 20) (fg : PalIdx) (adv : Bool) (s : State) :
    (cacheCard col fg adv s).cacheBg =
      s.cacheBg.set col.val ((s.mem.read (cacheCard col fg adv s).csp).setWidth 4) col.isLt := by
  rw [cacheCard_eq]
  cases adv <;> rfl

/-! ## Step 2, the paint (R162) -/

/-- CS_CARD is step 1, and then the graphic row at base + 8*card + sub painted in the cached colors. -/
theorem csCard_eq (col : Fin 20) (fg : PalIdx) (gram : Bool) (card : Nat) (adv : Bool) (sub : Nat) (s : State) :
    csCard col fg gram card adv sub s =
      { paintCardRow col.val (rowByte s (graphicAddr gram card sub)) (csStepOne col fg adv sub s).cacheFg[col]
          (csStepOne col fg adv sub s).cacheBg[col] (csStepOne col fg adv sub s) with
        use := .nothing } := by
  show fetchRow _ (.cardRow col (csStepOne col fg adv sub s).cacheFg[col] (csStepOne col fg adv sub s).cacheBg[col])
    (csStepOne col fg adv sub s) = _
  rw [fetchRow_cardRow, growRow_get_read]
  obtain ⟨csp, cacheFg, cacheBg, use, h⟩ := csStepOne_frame col fg adv sub s
  rw [h]
  rfl

theorem csCard_frame (col : Fin 20) (fg : PalIdx) (gram : Bool) (card : Nat) (adv : Bool) (sub : Nat) (s : State) :
    csCard col fg gram card adv sub s =
      { s with
        csp := (csStepOne col fg adv sub s).csp
        cacheFg := (csStepOne col fg adv sub s).cacheFg
        cacheBg := (csStepOne col fg adv sub s).cacheBg
        cbuf := (csCard col fg gram card adv sub s).cbuf
        bbuf := (csCard col fg gram card adv sub s).bbuf
        use := .nothing } := by
  obtain ⟨csp, cacheFg, cacheBg, use, h⟩ := csStepOne_frame col fg adv sub s
  rw [csCard_eq, h]
  rfl

/-- The paint is that of `s`: step 1 touches neither HD nor the palette nor the buffers. -/
theorem csCard_cardPainted (col : Fin 20) (fg : PalIdx) (gram : Bool) (card : Nat) (adv : Bool) (sub : Nat) (s : State) :
    CardPainted s (csCard col fg gram card adv sub s) col.val
      (fun b => if (rowByte s (graphicAddr gram card sub)).getLsbD (7 - b)
        then s.colorOf (csStepOne col fg adv sub s).cacheFg[col] else s.colorOf (csStepOne col fg adv sub s).cacheBg[col])
      (fun b => (rowByte s (graphicAddr gram card sub)).getLsbD (7 - b)) := by
  obtain ⟨csp, cacheFg, cacheBg, use, h⟩ := csStepOne_frame col fg adv sub s
  rw [csCard_eq, h]
  exact paintCardRow_cardPainted col.val _ _ _ _

/-- Settles O14: inside the window the word is CS_CARD, whose step 1 is the cache on sub-row 0 and nothing on the
others, and whose paint leaves CSP and the cache alone. -/
theorem csCardCachesOnFirstSubRow : Obligations.CsCardCachesOnFirstSubRow := by
  intro i n fg gram card adv s bl hi h
  refine ⟨_, exec_csOperands_of_inWindow hi h, ?_⟩
  rw [csCard_frame]
  refine ⟨rfl, fun first => ?first, fun later => ?later⟩
  case first =>
    rw [csStepOne, if_pos first]
    refine ⟨?cspMoves, fun c => ?bgCached, fun c => ?fgCached⟩
    case cspMoves =>
      show (cacheCard (backtabCol n) fg adv s).csp = _
      rw [cacheCard_eq, ← nextCsp_eq]
    case bgCached =>
      rw [cacheCard_cacheBg]
      simp [Vector.getElem_set, backtabCol, eq_comm]
    case fgCached =>
      rw [cacheCard_eq]
      simp [Vector.getElem_set, backtabCol, eq_comm]
  case later =>
    rw [csStepOne, if_neg later]
    exact ⟨rfl, rfl, rfl⟩

/-- Settles O15: the paint of CS_CARD, in the colors that its step 1 leaves in the cache. -/
theorem csCardPaints : Obligations.CsCardPaints := by
  intro i n fg gram card adv s bl col hi h hcol
  obtain rfl : col = backtabCol n := Fin.ext hcol
  refine ⟨_, exec_csOperands_of_inWindow hi h, ?_⟩
  have paint := csCard_cardPainted (backtabCol n) fg gram card adv (bl % 8) s
  rw [csCard_frame] at paint ⊢
  exact paint

end Sys2Proof.Machine
end

section
/-! O16: a colored-squares card (R163). -/

namespace Sys2Proof.Machine

open Sys2Proof.Claims

theorem exec_btCsSquares_of_inWindow {s : State} {bl : Nat} (h : InWindow s bl) (n : Fin 240) (c0 c1 c2 c3 : BitVec 3) :
    exec (.btCsSquares n c0 c1 c2 c3) s = .next (csqCard (backtabCol n) c0 c1 c2 c3 (bl % 8) s) := by
  rw [exec, execBtCsSquares, bgLine_eq_some_iff.mpr h]

/-- A selector, three bits wide, names slot 7 as a palette index exactly if it is 7. -/
theorem selector_setWidth_eq_seven (sel : BitVec 3) : sel.setWidth 4 = (7 : PalIdx) ↔ sel = 7 := by
  decide +revert

/-- M[CSP][3:0] (R99). -/
theorem stackColor_eq (s : State) : s.stackColor = (s.mem.read s.csp).setWidth 4 := rfl

/-- While slot 7 stands overridden, selector 7 shows the stack color and any other its own palette color (R131, R132). -/
theorem colorOf_selector_overridden (s : State) (sel : BitVec 3) :
    (fetchStack .squareOverride s).colorOf (sel.setWidth 4) =
      if sel = 7 then paletteColor s.params s.stackColor else paletteColor s.params (sel.setWidth 4) := by
  rw [fetchStack_squareOverride, State.colorOf]
  simp only [selector_setWidth_eq_seven]

/-- The loop body paints one card column with slot 7 overridden; overriding and restoring touch neither HD nor the
buffers. -/
theorem csqCard_cardPainted (col : Fin 20) (c0 c1 c2 c3 : BitVec 3) (sub : Nat) (s : State) :
    CardPainted s (csqCard col c0 c1 c2 c3 sub s) col.val
      (fun b => (fetchStack .squareOverride s).colorOf ((squareSelector c0 c1 c2 c3 sub b).setWidth 4))
      (fun b => decide (squareSelector c0 c1 c2 c3 sub b ≠ 7)) :=
  paintCard_cardPainted col.val _ _ (fetchStack .squareOverride s)

/-- Settles O16: inside the window the word is the loop body of its card column, which writes the buffers and restores
slot 7 from the table, and whose colors are those of the overridden palette. -/
theorem coloredSquaresPaint : Obligations.ColoredSquaresPaint := by
  intro n c0 c1 c2 c3 s bl h
  refine ⟨_, exec_btCsSquares_of_inWindow h n c0 c1 c2 c3, csqCard_eq _ _ _ _ _ _ s, ?_⟩
  have paint := csqCard_cardPainted (backtabCol n) c0 c1 c2 c3 (bl % 8) s
  simp only [colorOf_selector_overridden, stackColor_eq] at paint
  exact paint

end Sys2Proof.Machine
end

section
/-! O42: the color stack off the first sub-rows (R165, R244, R284). -/

namespace Sys2Proof.Machine

open Sys2Proof.Claims

/-- What a word keeps when step 1 of CS_CARD does not run: the color stack. -/
structure StackKept (s t : State) : Prop where
  csp     : t.csp = s.csp
  cacheFg : t.cacheFg = s.cacheFg
  cacheBg : t.cacheBg = s.cacheBg

namespace StackKept

theorem refl (s : State) : StackKept s s := ⟨rfl, rfl, rfl⟩

theorem trans {s t u : State} (h : StackKept s t) (k : StackKept t u) : StackKept s u :=
  ⟨k.csp.trans h.csp, k.cacheFg.trans h.cacheFg, k.cacheBg.trans h.cacheBg⟩

end StackKept

/-- The line is not on sub-row 0 of color-stack mode: FG/BG mode, outside the window, or another sub-row. -/
def OffFirstSubRow (s : State) : Prop := ∀ bl, s.modeq = true → s.bgLine = some bl → bl % 8 ≠ 0

theorem OffFirstSubRow.congr {s t : State} (h : OffFirstSubRow s) (hm : t.modeq = s.modeq) (hb : t.bgLine = s.bgLine) :
    OffFirstSubRow t := by
  intro bl
  rw [hm, hb]
  exact h bl

/-- In FG/BG mode no BACKTAB word uses the cache (R90, R91). -/
theorem modeq_of_stackColumn {s : State} {n : Fin 240} {c : Fin 20}
    (h : stackColumn (s.instrAt (.backtab n)) = some c) : s.modeq = true := by
  by_contra hm
  rw [State.instrAt, Bool.eq_false_of_not_eq_true hm] at h
  cases h

/-- Off sub-row 0 CS_CARD only paints (R161, R165). -/
theorem csCard_stackKept (col : Fin 20) (fg : PalIdx) (gram : Bool) (card : Nat) (adv : Bool) {sub : Nat} (h : sub ≠ 0)
    (s : State) : StackKept s (csCard col fg gram card adv sub s) := by
  rw [csCard_frame, csStepOne, if_neg h]
  exact ⟨rfl, rfl, rfl⟩

theorem runCell_backtab_stackKept {s : State} (h : OffFirstSubRow s) (n : Fin 240) :
    StackKept s (runCell s (.backtab n)) := by
  have hi : isBacktab (s.instrAt (.backtab n)) = true := isBacktab_decodeCell _ _ _
  cases hb : s.bgLine with
  | none => rw [runCell, after_backtab_outside hi hb]; exact .refl s
  | some bl =>
    rw [runCell]
    obtain ⟨-, col, fg, card, bg, gram, run⟩ | ⟨col, fg, gram, card, adv, hc, run⟩ | ⟨-, col, c0, c1, c2, c3, run⟩ :=
      after_backtab_cases hi
    · rw [run s bl hb, fgbgCard_eq]; exact ⟨rfl, rfl, rfl⟩
    · rw [run s bl hb]; exact csCard_stackKept _ _ _ _ _ (h bl (modeq_of_stackColumn hc) hb) s
    · rw [run s bl hb, csqCard_eq]; exact ⟨rfl, rfl, rfl⟩

/-- Running BACKTAB cells one after another: the induction, once. -/
theorem runBacktab_stackKept (l : List (Fin 240)) {s : State} (h : OffFirstSubRow s) :
    StackKept s ((l.map Cell.backtab).foldl runCell s) := by
  induction l generalizing s with
  | nil => exact .refl s
  | cons n l ih =>
    have frame := runCell_backtab_paintFrame n s
    exact (runCell_backtab_stackKept h n).trans (ih (h.congr (by rw [frame.same]) (by rw [frame.same]; rfl)))

/-- Background line 0 is on sub-row 0, so CSP is not reset either (R160). -/
theorem background_stackKept {s : State} (h : OffFirstSubRow s) : StackKept s (background s) := by
  cases hb : s.bgLine with
  | none => rw [background, hb]; exact .refl s
  | some bl =>
    have noReset : ¬ (s.modeq = true ∧ bl = 0) := fun ⟨hm, hz⟩ => h bl hm hb (by rw [hz])
    rw [background_inWindow (bgLine_eq_some_iff.mp hb), if_neg noReset, backgroundCells_eq]
    exact runBacktab_stackKept _ h

theorem border_stackKept (s : State) : StackKept s (border s) := by
  show StackKept s (after (.borderColor _) s)
  simp only [after, exec, execBorderColor]
  cases s.line with
  | none => exact .refl s
  | some n => dsimp only; rw [paintBorder_frame]; exact ⟨rfl, rfl, rfl⟩

theorem sprites_stackKept (s : State) : StackKept s (sprites s) := by
  rw [(sprites_mobFrame s).same]
  exact ⟨rfl, rfl, rfl⟩

theorem renderedLine_stackKept {s : State} (h : OffFirstSubRow s) : StackKept s (renderedLine s) := by
  have frame := border_lineFrame s
  have off : OffFirstSubRow (border s) := h.congr frame.modeq (bgLine_of_lineFrame frame)
  exact (((border_stackKept s).trans (background_stackKept off)).trans (sprites_stackKept _)).trans (border_stackKept _)

/-- The four ways to be off sub-row 0 of color-stack mode. -/
theorem offFirstSubRow_of_rendering {s : State} {n : Fin 112} (hs : s.seq = .rendering n)
    (h : s.modeq = false ∨ n.val < s.vd ∨ s.vd + 96 ≤ n.val ∨ (n.val - s.vd) % 8 ≠ 0) : OffFirstSubRow s := by
  intro bl hm hb
  obtain ⟨line, hline, hval, hbl⟩ := bgLine_eq_some_iff.mp hb
  obtain rfl : n = line := Seq.rendering.inj (hs.symm.trans hline)
  have hn := h.resolve_left (by simp [hm])
  omega

/-- Settles O42: every word of the line keeps the color stack, and so do COPY_OUT, CLEAR and the move of SEQ. -/
theorem stackPointerStillOffFirstSubRows : Obligations.StackPointerStillOffFirstSubRows := by
  intro s n hs h
  have kept := renderedLine_stackKept (offFirstSubRow_of_rendering hs h)
  refine ⟨_, step_line hs, ?_⟩
  rw [lineStep_eq]
  generalize renderedLine s = u at kept
  exact ⟨kept.csp, kept.cacheFg, kept.cacheBg⟩

end Sys2Proof.Machine
end

section
/-! O22, O23, O24, O26: the numbers of a MOB record (R182, R183, R186), and a MOB that is not active (R182, R184). -/

namespace Sys2Proof.Machine

/-! ## The record's numbers -/

theorem enabled_iff (u : Mob) :
    u.enabled = true ↔ u.x.toNat ≠ 0 ∧ u.x.toNat ≤ 167 ∧ (u.visb = true ∨ u.intr = true) := by
  simp only [Mob.enabled, Bool.and_eq_true, decide_eq_true_iff, Bool.or_eq_true, and_assoc]

/-- Settles O23: a shift to the left is a product with a power of two. -/
theorem mobSizes : Obligations.MobSizes := by
  intro u
  simp only [Mob.height, Mob.rows, Nat.shiftLeft_eq, and_self]

/-- The card mask of GRAM is the remainder modulo 64 (R186). -/
theorem toNat_and_cardMask (c : Byte) : (c &&& 0x3F#8).toNat = c.toNat % 64 := by
  rw [BitVec.toNat_and]
  exact Nat.and_two_pow_sub_one_eq_mod c.toNat 6

/-- Clearing the low bit rounds down to an even number (R186). -/
theorem toNat_and_clearLowBit (c : Byte) : (c &&& 0xFE#8).toNat = c.toNat - c.toNat % 2 := by
  have shifts : c &&& 0xFE#8 = c >>> 1 <<< 1 := by
    ext j hj
    interval_cases j <;> simp
  rw [shifts, BitVec.toNat_shiftLeft, BitVec.toNat_ushiftRight, Nat.shiftLeft_eq, Nat.shiftRight_eq_div_pow]
  omega

/-- R186 in arithmetic form: the two masks of the card number, one after the other. -/
theorem Mob.cardNumber_toNat (u : Mob) :
    u.cardNumber.toNat =
      let c := if u.gram then u.card.toNat % 64 else u.card.toNat
      if u.yres then c - c % 2 else c := by
  have masked : (if u.gram then u.card &&& 0x3F#8 else u.card).toNat =
      if u.gram then u.card.toNat % 64 else u.card.toNat := by
    split
    · exact toNat_and_cardMask u.card
    · rfl
  unfold Mob.cardNumber
  dsimp only
  split
  · rw [toNat_and_clearLowBit, masked]
  · exact masked

/-- Settles O24: the first cell of the source, and the card number in arithmetic form. -/
theorem mobGraphicBase : Obligations.MobGraphicBase := by
  intro u
  rw [Mob.base, Mob.cardNumber_toNat, graphicBase]

/-! ## The loop body of SPRITES (R180, R184) -/

section
variable {s : State} {sl : Int} (i : Fin 8) (reg : Word)

theorem mobPass_inactive (h : ¬ (s.unit.enabled = true ∧ s.unit.onLine sl = true)) : mobPass i reg sl s = s := by
  rw [mobPass, if_neg (by rwa [Bool.and_eq_true])]

theorem mobPass_active (he : s.unit.enabled = true) (ho : s.unit.onLine sl = true) :
    mobPass i reg sl s = mobComposite i reg (fetchMobRows (sl - s.unit.y.toNat).toNat (clearCol167 s)) := by
  rw [mobPass, he, ho]
  rfl

end

/-- Settles O22: the test's three parts; a MOB that fails it is not active on any line. -/
theorem mobEnableTest : Obligations.MobEnableTest := by
  refine ⟨enabled_iff, fun i reg sl s disabled => mobPass_inactive i reg fun ⟨enabled, _⟩ => ?_⟩
  exact Bool.false_ne_true (disabled.symm.trans enabled)

section
variable {s : State} (i : Fin 8) (mob : BitVec 8) (bg border : Bool)

theorem exec_mobColl_of_spriteLine {sl : Int} (h : s.spriteLine = some sl) :
    exec (.mobColl i mob bg border) s =
      .next { mobPass i (collReg (s.mem.read (collAddr i)) mob bg border) sl s with unit := Mob.blank } := by
  rw [exec, execMobColl, h]

theorem exec_mobColl_of_no_spriteLine (h : s.spriteLine = none) : exec (.mobColl i mob bg border) s = .next s := by
  rw [exec, execMobColl, h]

end

/-- Settles O26: each of the five conditions makes the MOB disabled or puts it off the line. -/
theorem mobNotActiveHasNoEffect : Obligations.MobNotActiveHasNoEffect := by
  intro i mob bg border s n hs inactive
  have notActive : ¬ (s.unit.enabled = true ∧ s.unit.onLine ((n.val : Int) + 8 - s.vd) = true) := by
    rw [enabled_iff, onLine_iff]
    rintro ⟨⟨hx0, hx, hflags⟩, hlo, hhi⟩
    obtain h | h | ⟨hv, hi⟩ | h | h := inactive
    · exact hx0 h
    · omega
    · simp [hv, hi] at hflags
    · omega
    · omega
  rw [exec_mobColl_of_spriteLine i mob bg border (spriteLine_rendering hs), mobPass_inactive i _ notActive]

end Sys2Proof.Machine
end

section
/-! O30, O31: the graphic bytes of a MOB (R187 to R189), and the cells of its pixels (R190, R231, R234). -/

namespace Sys2Proof.Machine

open Sys2Proof.Claims

/-! ## MOB_ROWS -/

/-- The byte a MOB shows for a graphic row: mirrored with XFLIP (R189). -/
def Mob.shown (u : Mob) (g : Byte) : Byte := if u.xflip then rev g else g

theorem Mob.largeRow_eq (u : Mob) (d : Nat) :
    u.largeRow d =
      if u.yflip then u.rows - 1 - d / 2 ^ (u.ysize.toNat - 1) else d / 2 ^ (u.ysize.toNat - 1) := by
  rw [Mob.largeRow, Nat.shiftRight_eq_div_pow]

/-- The smallest size class: with YFLIP the copies change places (R187). -/
theorem fetchMobRows_small {s : State} (h : s.unit.ysize = 0) (d : Nat) :
    fetchMobRows d s =
      { s with
        unit := { s.unit with
          b0 := s.unit.shown
            (rowByte s (s.unit.base + if s.unit.yflip then s.unit.smallRow d + 1 else s.unit.smallRow d))
          b1 := s.unit.shown
            (rowByte s (s.unit.base + if s.unit.yflip then s.unit.smallRow d else s.unit.smallRow d + 1)) }
        use := .nothing } := by
  rw [fetchMobRows, if_pos h, fetchRow_mobRow, fetchRow_mobRow]
  simp only [growRow_get_read, Mob.shown, rowByte]
  cases s.unit.yflip <;> rfl

/-- The other size classes: both copies show one row (R188). -/
theorem fetchMobRows_large {s : State} (h : s.unit.ysize ≠ 0) (d : Nat) :
    fetchMobRows d s =
      { s with
        unit := { s.unit with
          b0 := s.unit.shown (rowByte s (s.unit.base + s.unit.largeRow d))
          b1 := s.unit.shown (rowByte s (s.unit.base + s.unit.largeRow d)) }
        use := .nothing } := by
  rw [fetchMobRows, if_neg h, fetchRow_mobRow, growRow_get_read]
  rfl

/-- Settles O30: the frame is the shared law's; the bytes are those of the size class. -/
theorem mobRowsSelectBytes : Obligations.MobRowsSelectBytes := by
  intro d s
  refine ⟨fetchMobRows_frame d s, fun small => ?_, fun large => ?_⟩
  · rw [fetchMobRows_small small]
    exact ⟨rfl, rfl⟩
  · rw [fetchMobRows_large large, Mob.largeRow_eq]
    exact ⟨rfl, rfl⟩

/-! ## Draw cells and tag cells -/

theorem mem_drawCols (u : Mob) (hd p x : Nat) :
    x ∈ u.drawCols hd p ↔
      x < 352 ∧ ∃ m : Nat, m < u.pixelWidth ∧ (x : Int) = sprx hd u.x.toNat p u.pixelWidth + (m : Int) := by
  simp only [Mob.drawCols, List.mem_filterMap, List.mem_range, clip_eq_some]
  constructor
  · rintro ⟨m, hm, hc, hx⟩
    exact ⟨hx, m, hm, hc.symm⟩
  · rintro ⟨hx, m, hm, hc⟩
    exact ⟨m, hm, hc.symm, hx⟩

theorem tagCols_normal {u : Mob} (h : u.xsize = false) (offsets : Vector Int 4) (hd p : Nat) :
    u.tagCols offsets hd p = u.drawCols hd p := by
  rw [Mob.tagCols, h]
  rfl

theorem mem_tagCols_double {u : Mob} (h : u.xsize = true) (offsets : Vector Int 4) (hd p x : Nat) :
    x ∈ u.tagCols offsets hd p ↔
      x < 352 ∧ ∃ o ∈ offsets.toList, (x : Int) = sprx hd u.x.toNat p 4 + o := by
  simp only [Mob.tagCols, h, if_true, List.mem_filterMap, clip_eq_some]
  constructor
  · rintro ⟨o, ho, hc, hx⟩
    exact ⟨hx, o, ho, hc.symm⟩
  · rintro ⟨hx, o, ho, hc⟩
    exact ⟨o, ho, hc.symm, hx⟩

/-- Settles O31: both sets are clipped columns counted from SPRX. -/
theorem mobPixelCells : Obligations.MobPixelCells := by
  intro u offsets hd p x
  refine ⟨mem_drawCols u hd p x, fun h => tagCols_normal h offsets hd p, fun double => ?_⟩
  simp only [double, if_true]
  exact mem_tagCols_double double offsets hd p x

end Sys2Proof.Machine
end

section
/-! O32: one pixel of a MOB (R191 to R193). -/

namespace Sys2Proof.Machine

/-! ## Step 1: accumulate and tag (R191) -/

/-- Tagging cells in turn ORs the bit into each of them once, however often it is listed. -/
theorem tagFold_getElem (m : Mask) (tag : List Nat) (r : Row Mask) (c : Nat) (hc : c < 352) :
    (tag.foldl (fun b d => b.setIfInBounds d (rowAt 0#10 b d ||| m)) r)[c] =
      if c ∈ tag then r[c] ||| m else r[c] := by
  induction tag generalizing r with
  | nil => rfl
  | cons d tag ih =>
    rw [List.foldl_cons, ih, Vector.getElem_setIfInBounds]
    by_cases hd : d = c
    · subst hd
      simp [hc, BitVec.or_assoc]
    · simp [hd, Ne.symm hd]

theorem mobCollide_coll (i : Fin 8) (u : Mob) (draw tag : List Nat) (cv : Canvas) (c : Nat) (hc : c < 352) :
    (mobCollide i u draw tag cv).coll[c] =
      if u.intr = true ∧ c ∈ tag then cv.coll[c] ||| mobBit i else cv.coll[c] := by
  unfold mobCollide
  split
  · next interactive => simp only [tagFold_getElem, interactive, true_and]
  · next silent => simp [silent]

/-- A mask stands in the register at its own bits (R98, R191). -/
theorem maskToReg_getLsbD (m : Mask) {j : Nat} (hj : j < 16) : (maskToReg m).getLsbD j = m.getLsbD j := by
  rw [maskToReg, BitVec.getLsbD_setWidth, decide_eq_true hj, Bool.true_and]

theorem mobCollide_reg (i : Fin 8) (u : Mob) (draw tag : List Nat) (cv : Canvas) {j : Nat} (hj : j < 16) :
    (mobCollide i u draw tag cv).reg.getLsbD j =
      (cv.reg.getLsbD j || (u.intr && draw.any fun c => (rowAt 0#10 cv.coll c).getLsbD j)) := by
  unfold mobCollide
  split
  · next interactive =>
    simp only [getLsbD_accumulate, maskToReg_getLsbD _ hj, interactive, Bool.true_and]
  · next silent => simp [silent]

theorem mobCollide_wrote (i : Fin 8) (u : Mob) (draw tag : List Nat) (cv : Canvas) :
    (mobCollide i u draw tag cv).wrote = true ↔ cv.wrote = true ∨ (u.intr = true ∧ draw ≠ []) := by
  unfold mobCollide
  split
  · next interactive => simp [interactive]
  · next silent => simp [silent]

theorem mobCollide_color (i : Fin 8) (u : Mob) (draw tag : List Nat) (cv : Canvas) :
    (mobCollide i u draw tag cv).color = cv.color := by
  unfold mobCollide
  split <;> rfl

/-- A tag is below bit 8, the bit that priority tests. -/
theorem mobBit_getLsbD_bgBit (i : Fin 8) : (mobBit i).getLsbD 8 = false := by
  revert i
  decide

theorem mobCollide_coll_bgBit (i : Fin 8) (u : Mob) (draw tag : List Nat) (cv : Canvas) (c : Nat) (hc : c < 352) :
    (mobCollide i u draw tag cv).coll[c].getLsbD 8 = cv.coll[c].getLsbD 8 := by
  rw [mobCollide_coll]
  split
  · rw [BitVec.getLsbD_or, mobBit_getLsbD_bgBit, Bool.or_false]
  · rfl

/-! ## Step 2: priority and paint (R192) -/

/-- Does a MOB show over a cell that carries these bits? -/
def Mob.shows (u : Mob) (m : Mask) : Bool := !(u.prio && m.getLsbD 8) && u.visb

theorem Mob.shows_iff (u : Mob) (m : Mask) :
    u.shows m = true ↔ ¬ (u.prio = true ∧ m.getLsbD 8 = true) ∧ u.visb = true := by
  rw [Mob.shows, Bool.and_eq_true, Bool.not_eq_true', ← Bool.not_eq_true, Bool.and_eq_true]

/-- Painting one draw cell changes that cell only, and only where the MOB shows. -/
theorem paintCell_getElem (u : Mob) (color : Color) (coll : Row Mask) (r : Row Color) (d c : Nat) (hc : c < 352) :
    (if u.prio && (rowAt 0#10 coll d).getLsbD 8 then r else if u.visb then r.setIfInBounds d color else r)[c] =
      if c = d ∧ u.shows coll[c] = true then color else r[c] := by
  by_cases hd : c = d
  · subst hd
    rw [rowAt_of_lt _ _ _ hc, Mob.shows]
    generalize (u.prio && coll[c].getLsbD 8) = hidden
    cases hidden <;> cases u.visb <;> simp
  · generalize (u.prio && (rowAt 0#10 coll d).getLsbD 8) = hidden
    cases hidden <;> cases u.visb <;> simp [hd, Ne.symm hd]

theorem mobPaint_color (u : Mob) (color : Color) (draw : List Nat) (cv : Canvas) (c : Nat) (hc : c < 352) :
    (mobPaint u color draw cv).color[c] =
      if c ∈ draw ∧ u.shows cv.coll[c] = true then color else cv.color[c] := by
  unfold mobPaint
  generalize cv.color = r
  induction draw generalizing r with
  | nil => simp
  | cons d draw ih =>
    rw [List.foldl_cons]
    refine (ih _).trans ?_
    rw [paintCell_getElem]
    cases u.shows cv.coll[c] with
    | false => simp
    | true => by_cases later : c ∈ draw <;> simp [later]

/-! ## The pixel (R193) -/

section
variable (i : Fin 8) (u : Mob) (color : Color) (hd : Nat) (offsets : Vector Int 4) {b : Byte} (cv : Canvas) {p : Nat}

theorem mobPixel_clear (h : b.getLsbD (7 - p) = false) : mobPixel i u color hd offsets b cv p = cv := by
  rw [mobPixel, h]
  rfl

theorem mobPixel_set (h : b.getLsbD (7 - p) = true) :
    mobPixel i u color hd offsets b cv p =
      mobPaint u color (u.drawCols hd p) (mobCollide i u (u.drawCols hd p) (u.tagCols offsets hd p) cv) := by
  rw [mobPixel, if_pos h]

end

/-- Settles O32: a 1 bit runs step 1 and then step 2, whose priority test sees bit 8 as step 1 found it. -/
theorem mobPixelCollidesAndPaints : Obligations.MobPixelCollidesAndPaints := by
  intro i u color hd offsets b cv p
  refine ⟨mobPixel_clear i u color hd offsets cv, fun one => ?_⟩
  simp only [mobPixel_set i u color hd offsets cv one]
  refine ⟨fun j hj => mobCollide_reg i u _ _ cv hj, mobCollide_wrote i u _ _ cv, fun c hc => ⟨?_, ?_⟩⟩
  · exact mobCollide_coll i u _ _ cv c hc
  · simp only [mobPaint_color, Mob.shows_iff, mobCollide_coll_bgBit, mobCollide_color]

end Sys2Proof.Machine
end

section
/-! O33: the column-167 clear (R184, R185, R234). -/

namespace Sys2Proof.Machine

/-- The clear of one listed cell: a copy and a column relative to HD. -/
def clearCell (hd : Nat) (b : Copies Mask) (kc : Fin 2 × Int) : Copies Mask :=
  match clip ((hd : Int) + kc.2) with
  | some x => b.set kc.1 ((b.get kc.1).setIfInBounds x 0)
  | none => b

theorem clearCol167_bbuf (s : State) :
    (clearCol167 s).bbuf = s.params.col167Cells.foldl (clearCell s.hd) s.bbuf := rfl

theorem clearCell_getElem (hd : Nat) (b : Copies Mask) (j k : Fin 2) (o : Int) (x : Nat) (hx : x < 352) :
    ((clearCell hd b (j, o)).get k)[x] = if j = k ∧ (hd : Int) + o = x then 0 else (b.get k)[x] := by
  unfold clearCell
  split
  · next c hc =>
    obtain ⟨hcol, hlt⟩ := (clip_eq_some _ _).mp hc
    by_cases hk : j = k
    · subst hk
      rw [Copies.get_set_same, Vector.getElem_setIfInBounds]
      simp only [hcol, true_and, Nat.cast_inj]
    · rw [Copies.get_set_other _ hk, if_neg fun h => hk h.1]
  · next hc =>
    refine (if_neg fun h => ?_).symm
    rw [(clip_eq_some _ x).mpr ⟨h.2, hx⟩] at hc
    cases hc

/-- Clearing cells in turn zeroes the listed ones and leaves the others as they are. -/
theorem clearCells_getElem (hd : Nat) (l : List (Fin 2 × Int)) (b : Copies Mask) (k : Fin 2) (x : Nat) (hx : x < 352) :
    ((∃ o : Int, (k, o) ∈ l ∧ (hd : Int) + o = x) → ((l.foldl (clearCell hd) b).get k)[x] = 0) ∧
    ((¬ ∃ o : Int, (k, o) ∈ l ∧ (hd : Int) + o = x) →
      ((l.foldl (clearCell hd) b).get k)[x] = (b.get k)[x]) := by
  induction l generalizing b with
  | nil => exact ⟨fun ⟨_, ho, _⟩ => absurd ho List.not_mem_nil, fun _ => rfl⟩
  | cons kc l ih =>
    obtain ⟨j, a⟩ := kc
    obtain ⟨listed, unlisted⟩ := ih (clearCell hd b (j, a))
    rw [List.foldl_cons]
    by_cases later : ∃ o : Int, (k, o) ∈ l ∧ (hd : Int) + o = x
    · refine ⟨fun _ => listed later, fun absent => absurd ?_ absent⟩
      obtain ⟨o, ho, hx⟩ := later
      exact ⟨o, List.mem_cons_of_mem _ ho, hx⟩
    · rw [unlisted later, clearCell_getElem]
      constructor
      · rintro ⟨o, ho, hcol⟩
        obtain heq | ho := List.mem_cons.mp ho
        · cases heq
          exact if_pos ⟨rfl, hcol⟩
        · exact absurd ⟨o, ho, hcol⟩ later
      · intro absent
        refine if_neg ?_
        rintro ⟨rfl, hcol⟩
        exact absent ⟨a, List.mem_cons_self, hcol⟩

/-- Settles O33: the fold over the cells, the active branch of the loop body, and the reset value. -/
theorem columnClearZeroesItsCells : Obligations.ColumnClearZeroesItsCells := by
  refine ⟨fun s => ⟨rfl, fun k x hx => ?_⟩, fun i reg sl s => mobPass_active i reg, rfl⟩
  rw [clearCol167_bbuf]
  exact clearCells_getElem s.hd s.params.col167Cells s.bbuf k x hx

end Sys2Proof.Machine
end

section
/-! O28, O29: the word of a collision register, for a MOB that its flags limit and for an active one (R180, R191 to
R194). -/

namespace Sys2Proof.Machine

/-! ## Flags that limit a MOB (R194) -/

section
variable (i : Fin 8) {u : Mob} (color : Color) (hd : Nat) (offsets : Vector Int 4) (b : Byte)

theorem mobPixel_noninteractive (h : u.intr = false) (cv : Canvas) (p : Nat) :
    (mobPixel i u color hd offsets b cv p).wrote = cv.wrote ∧
      (mobPixel i u color hd offsets b cv p).coll = cv.coll := by
  unfold mobPixel
  split
  · simp [mobPaint, mobCollide, h]
  · exact ⟨rfl, rfl⟩

theorem mobPixels_noninteractive (h : u.intr = false) (l : List Nat) (cv : Canvas) :
    (l.foldl (mobPixel i u color hd offsets b) cv).wrote = cv.wrote ∧
      (l.foldl (mobPixel i u color hd offsets b) cv).coll = cv.coll := by
  induction l generalizing cv with
  | nil => exact ⟨rfl, rfl⟩
  | cons p l ih =>
    obtain ⟨hw, hc⟩ := mobPixel_noninteractive i color hd offsets b h cv p
    obtain ⟨kw, kc⟩ := ih (mobPixel i u color hd offsets b cv p)
    exact ⟨kw.trans hw, kc.trans hc⟩

theorem mobPixel_invisible (h : u.visb = false) (cv : Canvas) (p : Nat) :
    (mobPixel i u color hd offsets b cv p).color = cv.color := by
  unfold mobPixel
  split
  · ext c hc
    simp [mobPaint_color, Mob.shows, mobCollide_color, h]
  · rfl

theorem mobPixels_invisible (h : u.visb = false) (l : List Nat) (cv : Canvas) :
    (l.foldl (mobPixel i u color hd offsets b) cv).color = cv.color := by
  induction l generalizing cv with
  | nil => rfl
  | cons p l ih => exact (ih _).trans (mobPixel_invisible i color hd offsets b h cv p)

end

theorem mobComposite_noninteractive {s : State} (h : s.unit.intr = false) (i : Fin 8) (reg : Word) :
    (mobComposite i reg s).mem = s.mem ∧ (mobComposite i reg s).bbuf = s.bbuf := by
  have copy (k : Fin 2) (r : Word) (w : Bool) :
      (mobCopy i s k r w).wrote = w ∧ (mobCopy i s k r w).coll = s.bbuf.get k :=
    mobPixels_noninteractive i _ _ _ _ h _ _
  simp only [mobComposite, copy]
  exact ⟨rfl, rfl⟩

theorem mobComposite_invisible {s : State} (h : s.unit.visb = false) (i : Fin 8) (reg : Word) :
    (mobComposite i reg s).cbuf = s.cbuf := by
  have copy (k : Fin 2) (r : Word) (w : Bool) : (mobCopy i s k r w).color = s.cbuf.get k :=
    mobPixels_invisible i _ _ _ _ h _ _
  simp only [mobComposite, copy]
  rfl

theorem mobPass_noninteractive {s : State} (h : s.unit.intr = false) (i : Fin 8) (reg : Word) (sl : Int) :
    (mobPass i reg sl s).mem = s.mem ∧
      ((mobPass i reg sl s).bbuf = s.bbuf ∨ (mobPass i reg sl s).bbuf = (clearCol167 s).bbuf) := by
  unfold mobPass
  split
  · have frame := fetchMobRows_frame (s.unit.offset sl).toNat (clearCol167 s)
    have silent : (fetchMobRows (s.unit.offset sl).toNat (clearCol167 s)).unit.intr = false := by rw [frame]; exact h
    obtain ⟨hmem, hbbuf⟩ := mobComposite_noninteractive silent i reg
    exact ⟨hmem.trans (by rw [frame]; rfl), .inr (hbbuf.trans (by rw [frame]))⟩
  · exact ⟨rfl, .inl rfl⟩

theorem mobPass_invisible {s : State} (h : s.unit.visb = false) (i : Fin 8) (reg : Word) (sl : Int) :
    (mobPass i reg sl s).cbuf = s.cbuf := by
  unfold mobPass
  split
  · have frame := fetchMobRows_frame (s.unit.offset sl).toNat (clearCol167 s)
    exact (mobComposite_invisible (by rw [frame]; exact h) i reg).trans (by rw [frame]; rfl)
  · rfl

/-- Settles O28: outside RENDERING nothing changes; on a line each clause is the law of its flag. -/
theorem mobFlagsLimitEffects : Obligations.MobFlagsLimitEffects := by
  intro i mob bg border s
  cases hs : s.spriteLine with
  | none =>
    refine ⟨s, exec_mobColl_of_no_spriteLine i mob bg border hs, fun _ => ?_, fun _ _ => rfl, fun _ => ?_⟩
    · exact ⟨rfl, .inl rfl⟩
    · exact ⟨rfl, rfl, rfl⟩
  | some sl =>
    refine ⟨_, exec_mobColl_of_spriteLine i mob bg border hs, fun noninteractive => ?_, fun invisible _ => ?_,
      fun disabled => ?_⟩
    · exact mobPass_noninteractive noninteractive i _ sl
    · exact mobPass_invisible invisible i _ sl
    · rw [mobPass_inactive i _ (by simp [disabled])]
      exact ⟨rfl, rfl, rfl⟩

/-! ## An active MOB (R180, R191 to R193) -/

/-- The register that MOB_COLL starts from: the word's fields at their bits over bits 15:10 (R33, R98). -/
theorem collReg_eq (old : Word) (mob : BitVec 8) (bg border : Bool) :
    collReg old mob bg border =
      (old &&& 0xFC00#16) ||| mob.setWidth 16 ||| (if bg then 0x100#16 else 0) |||
        (if border then 0x200#16 else 0) := by
  have fields : Layout.mobCMob.put mob = mob.setWidth 16 ∧
      Layout.mobCBg.putFlag bg = (if bg then 0x100#16 else 0) ∧
      Layout.mobCBorder.putFlag border = (if border then 0x200#16 else 0) := by
    refine ⟨?_, ?_, ?_⟩
    · exact BitVec.shiftLeft_zero _
    · cases bg <;> rfl
    · cases border <;> rfl
  obtain ⟨hmob, hbg, hborder⟩ := fields
  rw [collReg, hmob, hbg, hborder]

/-- Settles O29: the MOB is active, so the word composites it after the clear and the fetch, which change BBUF and the
record's bytes only. -/
theorem mobActiveIsComposited : Obligations.MobActiveIsComposited := by
  intro i mob bg border s n hs hx0 hx hflags hlo hhi
  have enabled : s.unit.enabled = true := (enabled_iff s.unit).mpr ⟨hx0, hx, hflags⟩
  have onLine : s.unit.onLine ((n.val : Int) + 8 - s.vd) = true := (onLine_iff s.unit _).mpr ⟨hlo, hhi⟩
  have offset : ((n.val : Int) + 8 - s.vd - s.unit.y.toNat).toNat = n.val + 8 - s.vd - s.unit.y.toNat := by omega
  rw [exec_mobColl_of_spriteLine i mob bg border (spriteLine_rendering hs), mobPass_active i _ enabled onLine, offset,
    collReg_eq, fetchMobRows_frame]
  rfl

end Sys2Proof.Machine
end

section
/-! Collision symmetrizer (45_collision.md): what FINALIZE leaves in the registers, for every order of its loops. -/

namespace Sys2Proof.Machine

open Sys2Proof.Claims

/-! ## Pass 2 in any order (R221, R222) -/

/-- Pass 2 over `l`, with `inner i` the order in which MOB i meets the others. -/
def mirrorInOrder (l : List (Fin 8)) (inner : Fin 8 → List (Fin 8)) (m : Memory) : Memory :=
  l.foldl (fun m i => (inner i).foldl (mirrorPair i) m) m

theorem mirrorInOrder_nil (inner : Fin 8 → List (Fin 8)) (m : Memory) : mirrorInOrder [] inner m = m := rfl

theorem mirrorInOrder_cons (i : Fin 8) (l : List (Fin 8)) (inner : Fin 8 → List (Fin 8)) (m : Memory) :
    mirrorInOrder (i :: l) inner m = mirrorInOrder l inner ((inner i).foldl (mirrorPair i) m) := rfl

theorem finalizeInOrder_eq (l1 l2 : List (Fin 8)) (l3 : Fin 8 → List (Fin 8)) (m : Memory) :
    finalizeInOrder l1 l2 l3 m = mirrorInOrder l2 l3 (l1.foldl clearSelf m) := rfl

/-- Register k has gained bit j where j's turn is over and j's register had bit k. That j's register may itself have
gained bit k before its turn adds nothing: it did so because register k had bit j already. -/
theorem mirrorInOrder_bit (l : List (Fin 8)) {inner : Fin 8 → List (Fin 8)} (full : ∀ i k, k ∈ inner i) (m : Memory)
    (k j : Fin 8) :
    ((mirrorInOrder l inner m).read (collAddr k)).getLsbD j.val =
      ((m.read (collAddr k)).getLsbD j.val ||
        (decide (j ∈ l) && decide (k ≠ j) && (m.read (collAddr j)).getLsbD k.val)) := by
  induction l generalizing m with
  | nil => simp [mirrorInOrder_nil]
  | cons i l ih =>
    have turn (a b : Fin 8) : (((inner i).foldl (mirrorPair i) m).read (collAddr a)).getLsbD b.val =
        ((m.read (collAddr a)).getLsbD b.val ||
          (decide (a ≠ i) && decide (b = i) && (m.read (collAddr i)).getLsbD a.val)) := by
      simp [mirrorFold_bit, full, Fin.ext_iff]
    rw [mirrorInOrder_cons, ih, turn k j, turn j k]
    by_cases hj : j = i
    · subst hj
      cases (m.read (collAddr k)).getLsbD j.val <;> simp +contextual
    · by_cases hk : k = i
      · subst hk
        cases (m.read (collAddr k)).getLsbD j.val <;> simp [hj]
      · simp [hj, hk]

/-- Pass 2 sets no bit above the MOB bits. -/
theorem mirrorInOrder_kept (l : List (Fin 8)) (inner : Fin 8 → List (Fin 8)) (m : Memory) (k : Fin 8) {b : Nat}
    (hb : 8 ≤ b) :
    ((mirrorInOrder l inner m).read (collAddr k)).getLsbD b = (m.read (collAddr k)).getLsbD b := by
  induction l generalizing m with
  | nil => rfl
  | cons i l ih =>
    rw [mirrorInOrder_cons, ih, mirrorFold_bit, decide_eq_false (show ¬ b = i.val by omega)]
    simp

theorem mirrorInOrder_other (l : List (Fin 8)) (inner : Fin 8 → List (Fin 8)) (m : Memory) {a : Nat}
    (h : a < 0x18 ∨ 0x20 ≤ a) : (mirrorInOrder l inner m).read a = m.read a := by
  induction l generalizing m with
  | nil => rfl
  | cons i l ih => rw [mirrorInOrder_cons, ih, mirrorFold_other i (inner i) m h]

/-! ## FINALIZE in any order (R222) -/

/-- The closed form of the MOB bits: the self bits go, the others are mirrored. -/
theorem finalizeInOrder_bit {l1 l2 : List (Fin 8)} {l3 : Fin 8 → List (Fin 8)} (full1 : ∀ k, k ∈ l1)
    (full2 : ∀ k, k ∈ l2) (full3 : ∀ i k, k ∈ l3 i) (m : Memory) (i j : Fin 8) :
    ((finalizeInOrder l1 l2 l3 m).read (collAddr i)).getLsbD j.val =
      (decide (i ≠ j) && ((m.read (collAddr i)).getLsbD j.val || (m.read (collAddr j)).getLsbD i.val)) := by
  have cleared (a b : Fin 8) : ((l1.foldl clearSelf m).read (collAddr a)).getLsbD b.val =
      ((m.read (collAddr a)).getLsbD b.val && decide (a ≠ b)) := by
    simp [clearSelfs_bit, full1, Fin.ext_iff, eq_comm]
  rw [finalizeInOrder_eq, mirrorInOrder_bit l2 full3, cleared, cleared]
  by_cases h : i = j
  · simp [h]
  · simp [h, Ne.symm h, full2]

theorem finalizeInOrder_kept (l1 l2 : List (Fin 8)) (l3 : Fin 8 → List (Fin 8)) (m : Memory) (i : Fin 8) {b : Nat}
    (hb : 8 ≤ b) :
    ((finalizeInOrder l1 l2 l3 m).read (collAddr i)).getLsbD b = (m.read (collAddr i)).getLsbD b := by
  rw [finalizeInOrder_eq, mirrorInOrder_kept l2 l3 _ i hb, clearSelfs_bit,
    decide_eq_false (show ¬ b = i.val by omega)]
  simp

theorem finalizeInOrder_other (l1 l2 : List (Fin 8)) (l3 : Fin 8 → List (Fin 8)) (m : Memory) {a : Nat}
    (h : a < 0x18 ∨ 0x20 ≤ a) : (finalizeInOrder l1 l2 l3 m).read a = m.read a := by
  rw [finalizeInOrder_eq, mirrorInOrder_other l2 l3 _ h, clearSelfs_other l1 m h]

theorem mem_mobsUp (k : Fin 8) : k ∈ mobsUp := by
  revert k
  decide

/-- The model's own order is one of those. -/
theorem finalizeMemory_eq_finalizeInOrder (m : Memory) :
    finalizeMemory m = finalizeInOrder mobsUp mobsUp (fun _ => mobsUp) m := rfl

theorem finalizeMemory_bit (m : Memory) (i j : Fin 8) :
    ((finalizeMemory m).read (collAddr i)).getLsbD j.val =
      (decide (i ≠ j) && ((m.read (collAddr i)).getLsbD j.val || (m.read (collAddr j)).getLsbD i.val)) := by
  rw [finalizeMemory_eq_finalizeInOrder]
  exact finalizeInOrder_bit mem_mobsUp mem_mobsUp (fun _ => mem_mobsUp) m i j

/-- Settles O35: the step runs FINALIZE, whose closed form is symmetric in i and j. -/
theorem collisionsSymmetricAfterFinalizing : Obligations.CollisionsSymmetricAfterFinalizing := by
  intro s h
  refine ⟨_, step_finalizing h, rfl, fun i j => ?_⟩
  have bit := finalizeMemory_bit s.mem
  refine ⟨fun hij => ?mirror, fun hij => ?symmetric, ?self, fun b hb => finalizeMemory_kept s.mem i hb,
    fun a ha => finalizeMemory_other s.mem ha, fun b hb hset => finalizeMemory_set s.mem i hb hset⟩
  case mirror => simpa [hij, collAddr] using bit i j
  case symmetric =>
    refine (bit i j).trans (Eq.trans ?_ (bit j i).symm)
    rw [Bool.or_comm, decide_eq_true hij, decide_eq_true hij.symm]
  case self => simpa [collAddr] using bit i i

/-- Settles O34: a permutation of the eight MOBs visits each of them, and no more is asked of the orders. -/
theorem finalizeClosedForm : Obligations.FinalizeClosedForm := by
  refine ⟨finalizeMemory_eq_finalizeInOrder, ?_⟩
  intro l1 l2 l3 m i h1 h2 h3
  have full {l : List (Fin 8)} (h : l.Perm mobsUp) (k : Fin 8) : k ∈ l := h.mem_iff.mpr (mem_mobsUp k)
  have bit := finalizeInOrder_bit (full h1) (full h2) (fun k => full (h3 k)) m i
  refine ⟨fun j hij => ?mirror, ?self, fun b hb => finalizeInOrder_kept l1 l2 l3 m i hb,
    fun a ha => finalizeInOrder_other l1 l2 l3 m ha⟩
  case mirror => simpa [hij, collAddr] using bit j
  case self => simpa [collAddr] using bit i

end Sys2Proof.Machine
end

section
/-! Pixel doubler (46_pixel_doubler.md): COPY_OUT and CLEAR cell by cell, and that every pixel they put into FRAME is
painted. -/

namespace Sys2Proof.Machine

open Sys2Proof.Claims

/-! ## COPY_OUT (R232) -/

/-- Both rows of the line are inside FRAME, so COPY_OUT writes copy k of CBUF into row 2*line + k. -/
theorem copyOut_frame_row (n : Fin 112) (s : State) (k : Fin 2) (y : Nat) (hy : y < 224) (h : y = 2 * n.val + k.val) :
    (copyOut n.val s).frame[y] = s.cbuf.get k := by
  match k with
  | 0 => simp [Copies.get, h]
  | 1 => simp [Copies.get, h]

theorem copyOut_frame_other (n : Nat) (s : State) (y : Nat) (hy : y < 224) (h0 : y ≠ 2 * n) (h1 : y ≠ 2 * n + 1) :
    (copyOut n s).frame[y] = s.frame[y] := by
  simp [h0.symm, h1.symm]

/-- Settles O36: row by row; COPY_OUT is an update of FRAME alone. -/
theorem copyOutWritesTwoRows : Obligations.CopyOutWritesTwoRows := by
  intro n s
  exact ⟨rfl, copyOut_frame_row n s 0 _ _ rfl, copyOut_frame_row n s 1 _ _ rfl, copyOut_frame_other n.val s⟩

/-! ## CLEAR (R233) -/

/-- Settles O37: both buffers are filled with 0, and CLEAR is the last step of LINE. -/
theorem linesEndWithClearBuffers : Obligations.LinesEndWithClearBuffers := by
  refine ⟨fun s => ⟨rfl, fun k x hx => ?_⟩, fun s n hs => ⟨_, step_line hs, rfl, rfl⟩⟩
  exact ⟨getElem_get_fill 0 k x hx, getElem_get_fill 0 k x hx⟩

/-! ## FRAME after a LINE (R232, R243) -/

theorem lineStep_frame_row (n : Fin 112) (s : State) (k : Fin 2) (y : Nat) (hy : y < 224) (h : y = 2 * n.val + k.val) :
    (lineStep n s).frame[y] = (renderedLine s).cbuf.get k :=
  copyOut_frame_row n (renderedLine s) k y hy h

/-- Settles O38: the words of the line leave FRAME alone, and COPY_OUT every row but its two. -/
theorem lineLeavesOtherFrameRows : Obligations.LineLeavesOtherFrameRows := by
  intro s n hs
  refine ⟨_, step_line hs, fun y hy h0 h1 => ?_⟩
  show (copyOut n.val (renderedLine s)).frame[y] = s.frame[y]
  simp only [copyOut_frame_other n.val _ y hy h0 h1, (renderedLine_lineFrame s).frame]

/-! ## Painted cells (R131, R134, R235) -/

/-- A cell of CBUF holds a color of the palette. -/
def State.Painted (s : State) (k : Fin 2) (x : Fin 352) : Prop :=
  ∃ c : PalIdx, (s.cbuf.get k)[x.val] = paletteColor s.params c

/-- While PAL7 is canonical the lookup is the palette's (R131, R134). -/
theorem colorOf_of_ready {s : State} (h : s.Ready) (c : PalIdx) : s.colorOf c = paletteColor s.params c := by
  by_cases hc : c = 7
  · rw [hc, colorOf_seven, h.pal7]
  · exact colorOf_of_ne_seven s hc

section
variable {s t : State} {k : Fin 2} {x : Fin 352}

theorem State.Painted.congr (h : s.Painted k x) (hcbuf : t.cbuf = s.cbuf) (hparams : t.params = s.params) :
    t.Painted k x := by
  unfold State.Painted
  rw [hcbuf, hparams]
  exact h

/-! ## The border (R140) -/

theorem border_color {n : Fin 112} (hs : s.seq = .rendering n) (h : s.Ready) :
    ∃ c, ((border s).cbuf.get k)[x.val] =
      if inBorder s.vd s.hd s.et s.el n.val x.val then paletteColor s.params c else (s.cbuf.get k)[x.val] := by
  have run : border s = paintBorder n.val _ s := after_next (exec_borderColor_of_rendering hs _)
  rw [run]
  exact ⟨_, by rw [paintBorder_color (by omega) (by omega), colorOf_of_ready h]⟩

/-- The border word paints the border and keeps what was painted elsewhere. -/
theorem border_painted {n : Fin 112} (hs : s.seq = .rendering n) (h : s.Ready)
    (hx : inBorder s.vd s.hd s.et s.el n.val x.val = true ∨ s.Painted k x) : (border s).Painted k x := by
  obtain ⟨c, hc⟩ := border_color (k := k) (x := x) hs h
  unfold State.Painted
  rw [hc, (border_lineFrame s).params]
  split
  · exact ⟨c, rfl⟩
  · next inside => exact hx.resolve_left inside

/-! ## The background (R150, R160, R230) -/

/-- The 16 columns of a card column (R230). -/
def InCard (hd : Nat) (col : Fin 20) (x : Nat) : Prop := hd + 16 * col.val ≤ x ∧ x < hd + 16 * col.val + 16

/-- A card painted in colors of the palette paints its own columns and keeps what was painted elsewhere. -/
theorem painted_of_cardPainted {col : Fin 20} {px : Nat → Color} {tag : Nat → Bool}
    (h : CardPainted s t col.val px tag) (hpx : ∀ b, ∃ c, px b = paletteColor s.params c) (hparams : t.params = s.params)
    (hx : InCard s.hd col x.val ∨ s.Painted k x) : t.Painted k x := by
  obtain ⟨pixel, other⟩ := h k x.val x.isLt
  unfold State.Painted
  rw [hparams]
  by_cases card : InCard s.hd col x.val
  · obtain ⟨h0, h1⟩ := card
    obtain ⟨c, hc⟩ := hpx ((x.val - (s.hd + 16 * col.val)) / 2)
    exact ⟨c, (pixel _ ((x.val - (s.hd + 16 * col.val)) % 2) (by omega) (by omega) (by omega)).1.trans hc⟩
  · obtain ⟨c, hc⟩ := hx.resolve_left card
    exact ⟨c, (other (by unfold InCard at card; omega)).1.trans hc⟩

end

/-- A BACKTAB cell holds a word of one of three kinds, and the word carries the cell's number (R91 to R94, R110). -/
theorem decodeCell_backtab_cases (m : Bool) (n : Fin 240) (w : Word) :
    (∃ fg card bg gram, decodeCell m (.backtab n) w = .btFgbgCard n fg card bg gram) ∨
    (∃ fg gram card adv, csOperands (decodeCell m (.backtab n) w) = some (n, fg, gram, card, adv)) ∨
    (∃ c0 c1 c2 c3, decodeCell m (.backtab n) w = .btCsSquares n c0 c1 c2 c3) := by
  cases m with
  | false => exact .inl ⟨_, _, _, _, rfl⟩
  | true =>
    by_cases squares : w.extractLsb' 11 2 = 2
    · exact .inr (.inr ⟨_, _, _, _, decodeCs_subMode_two squares n⟩)
    · obtain ⟨fg, gram, card, operands⟩ := csOperands_decodeCs squares n
      exact .inr (.inl ⟨fg, gram, card, _, operands⟩)

/-- In the window a BACKTAB cell paints its card column, and every pixel in a color of the palette (R153, R162, R163). -/
theorem runCell_backtab_cardPainted {s : State} {bl : Nat} (hs : s.Ready) (hw : InWindow s bl) (n : Fin 240) :
    ∃ px tag, CardPainted s (runCell s (.backtab n)) (backtabCol n).val px tag ∧
      ∀ b, ∃ c, px b = paletteColor s.params c := by
  obtain ⟨fg, card, bg, gram, word⟩ | ⟨fg, gram, card, adv, word⟩ | ⟨c0, c1, c2, c3, word⟩ :=
    decodeCell_backtab_cases s.modeq n (s.mem.read (Cell.backtab n).addr)
  · have run : runCell s (.backtab n) = fgbgCard (backtabCol n) fg card bg gram (bl % 8) s := by
      rw [runCell, State.instrAt, word, after_next (exec_btFgbgCard_of_inWindow hw n fg card bg gram)]
    rw [run, fgbgCard_eq]
    refine ⟨_, _, paintCardRow_cardPainted (backtabCol n).val _ _ _ s, fun b => ?_⟩
    simp only [colorOf_of_ready hs]
    split <;> exact ⟨_, rfl⟩
  · have run : runCell s (.backtab n) = csCard (backtabCol n) fg gram card adv (bl % 8) s :=
      after_next (exec_csOperands_of_inWindow word hw)
    rw [run]
    refine ⟨_, _, csCard_cardPainted _ _ _ _ _ _ s, fun b => ?_⟩
    simp only [colorOf_of_ready hs]
    split <;> exact ⟨_, rfl⟩
  · have run : runCell s (.backtab n) = csqCard (backtabCol n) c0 c1 c2 c3 (bl % 8) s := by
      rw [runCell, State.instrAt, word, after_next (exec_btCsSquares_of_inWindow hw n c0 c1 c2 c3)]
    rw [run]
    refine ⟨_, _, csqCard_cardPainted _ _ _ _ _ _ s, fun b => ?_⟩
    rw [colorOf_selector_overridden]
    split <;> exact ⟨_, rfl⟩

section
variable {s : State} {k : Fin 2} {x : Fin 352}

theorem runCell_backtab_painted {bl : Nat} (hs : s.Ready) (hw : InWindow s bl) (n : Fin 240)
    (hx : InCard s.hd (backtabCol n) x.val ∨ s.Painted k x) : (runCell s (.backtab n)).Painted k x := by
  obtain ⟨px, tag, paint, palette⟩ := runCell_backtab_cardPainted hs hw n
  exact painted_of_cardPainted paint palette (runCell_lineFrame s (.backtab n) rfl).params hx

/-- Running BACKTAB cells one after another paints the columns of them all: the induction, once. -/
theorem runBacktab_painted (l : List (Fin 240)) {bl : Nat} (hs : s.Ready) (hw : InWindow s bl)
    (hx : (∃ n ∈ l, InCard s.hd (backtabCol n) x.val) ∨ s.Painted k x) :
    ((l.map Cell.backtab).foldl runCell s).Painted k x := by
  induction l generalizing s with
  | nil => exact hx.resolve_left (by simp)
  | cons n l ih =>
    have frame := runCell_lineFrame s (.backtab n) rfl
    refine ih ((runCell_backtab_paintFrame n s).ready hs) ?_ ?_
    · rwa [← bgLine_eq_some_iff, bgLine_of_lineFrame frame, bgLine_eq_some_iff]
    · rw [frame.hd]
      obtain ⟨m, hm, card⟩ | old := hx
      · obtain rfl | later := List.mem_cons.mp hm
        · exact .inr (runCell_backtab_painted hs hw m (.inl card))
        · exact .inl ⟨m, later, card⟩
      · exact .inr (runCell_backtab_painted hs hw n (.inr old))

/-- Every card column has its cell in the row of a background line (R110). -/
theorem exists_backgroundRow_col (bl : Nat) (col : Fin 20) : ∃ n ∈ backgroundRow bl, backtabCol n = col := by
  refine ⟨_, List.mem_map.mpr ⟨col, List.mem_finRange col, rfl⟩, Fin.ext ?_⟩
  simp only [backtabCol, backtabCell]
  omega

/-- The 20 card columns together cover HD to HD + 319 (R230). -/
theorem background_painted {bl : Nat} (hs : s.Ready) (hw : InWindow s bl) (h0 : s.hd ≤ x.val)
    (h1 : x.val < s.hd + 320) : (background s).Painted k x := by
  obtain ⟨n, hn, hcol⟩ := exists_backgroundRow_col bl ⟨(x.val - s.hd) / 16, by omega⟩
  have card : InCard s.hd (backtabCol n) x.val := by
    rw [hcol]
    constructor <;> simp only <;> omega
  rw [background_inWindow hw, backgroundCells_eq]
  split
  · exact runBacktab_painted (s := resetCsp s) _ ((resetCsp_paintFrame s).ready hs) hw (.inl ⟨n, hn, card⟩)
  · exact runBacktab_painted _ hs hw (.inl ⟨n, hn, card⟩)

end

/-! ## The MOBs (R192) -/

section
variable (i : Fin 8) (u : Mob) (color : Color) (hd : Nat) (offsets : Vector Int 4) (b : Byte)

theorem mobPixel_color_cases (cv : Canvas) (p c : Nat) (hc : c < 352) :
    (mobPixel i u color hd offsets b cv p).color[c] = color ∨
      (mobPixel i u color hd offsets b cv p).color[c] = cv.color[c] := by
  unfold mobPixel
  split
  · simp only [mobPaint_color, mobCollide_color]
    exact ite_eq_or_eq _ _ _
  · exact .inr rfl

theorem mobPixels_color_cases (l : List Nat) (cv : Canvas) (c : Nat) (hc : c < 352) :
    (l.foldl (mobPixel i u color hd offsets b) cv).color[c] = color ∨
      (l.foldl (mobPixel i u color hd offsets b) cv).color[c] = cv.color[c] := by
  induction l generalizing cv with
  | nil => exact .inr rfl
  | cons p l ih =>
    obtain painted | kept := ih (mobPixel i u color hd offsets b cv p)
    · exact .inl painted
    · exact (mobPixel_color_cases i u color hd offsets b cv p c hc).imp kept.trans kept.trans

end

section
variable {s : State} {k : Fin 2} {x : Fin 352}

/-- A composite leaves a cell as it was or paints it in the MOB's color. -/
theorem mobComposite_color_cases (i : Fin 8) (reg : Word) :
    ((mobComposite i reg s).cbuf.get k)[x.val] = s.colorOf s.unit.fg ∨
      ((mobComposite i reg s).cbuf.get k)[x.val] = (s.cbuf.get k)[x.val] := by
  have copy (j : Fin 2) (r : Word) (w : Bool) : (mobCopy i s j r w).color[x.val] = s.colorOf s.unit.fg ∨
      (mobCopy i s j r w).color[x.val] = (s.cbuf.get j)[x.val] :=
    mobPixels_color_cases i _ _ _ _ _ _ _ x.val x.isLt
  match k with
  | 0 => exact copy 0 _ _
  | 1 => exact copy 1 _ _

theorem mobComposite_painted (hs : s.Ready) (i : Fin 8) (reg : Word) (hx : s.Painted k x) :
    (mobComposite i reg s).Painted k x := by
  show ∃ c, ((mobComposite i reg s).cbuf.get k)[x.val] = paletteColor s.params c
  obtain painted | kept := mobComposite_color_cases (s := s) (k := k) (x := x) i reg
  · exact ⟨s.unit.fg, painted.trans (colorOf_of_ready hs _)⟩
  · rwa [kept]

theorem mobPass_painted (hs : s.Ready) (i : Fin 8) (reg : Word) (sl : Int) (hx : s.Painted k x) :
    (mobPass i reg sl s).Painted k x := by
  unfold mobPass
  split
  · rw [fetchMobRows_frame]
    refine mobComposite_painted ?ready i reg ?old
    case ready => exact ⟨hs.csp, hs.pal7, rfl⟩
    case old => exact hx
  · exact hx

theorem runCell_mob_painted {n : Fin 112} (hn : s.seq = .rendering n) (hs : s.Ready) {i : Fin 8} {c : Cell}
    (hc : c ∈ mobCells i) (hx : s.Painted k x) : (runCell s c).Painted k x := by
  simp only [mobCells, List.mem_cons, List.not_mem_nil, or_false] at hc
  obtain rfl | rfl | rfl | rfl := hc
  · exact hx
  · exact hx
  · exact hx
  · rw [runCell_mobColl hn]
    exact mobPass_painted hs i _ _ hx

/-- Running MOB cells one after another keeps painted cells painted: the induction, once. -/
theorem runMobs_painted {n : Fin 112} (l : List Cell) (hl : ∀ c ∈ l, ∃ i, c ∈ mobCells i) (hn : s.seq = .rendering n)
    (hs : s.Ready) (hx : s.Painted k x) : (l.foldl runCell s).Painted k x := by
  induction l generalizing s with
  | nil => exact hx
  | cons c l ih =>
    obtain ⟨i, hi⟩ := hl c List.mem_cons_self
    have frame := runCell_mob_mobFrame hi s
    exact ih (fun d hd => hl d (List.mem_cons_of_mem _ hd)) (by rw [frame.same]; exact hn) (frame.ready hs)
      (runCell_mob_painted hn hs hi hx)

/-! ## The whole line (R235) -/

/-- A column that the border leaves out is a background line's, between HD and HD + 319 (R142, R143, R244). -/
theorem inWindow_of_not_inBorder {n : Fin 112} (hn : s.seq = .rendering n) {x : Nat}
    (h : ¬ inBorder s.vd s.hd s.et s.el n.val x = true) :
    InWindow s (n.val - s.vd) ∧ s.hd ≤ x ∧ x < s.hd + 320 := by
  rw [inBorder_iff] at h
  exact ⟨⟨n, hn, by omega, by omega⟩, by omega, by omega⟩

/-- What COPY_OUT reads is painted: the border word at the end paints the border, and inside it the background painted
and the MOBs only painted over. -/
theorem renderedLine_painted {n : Fin 112} (hn : s.seq = .rendering n) (hs : s.Ready) (k : Fin 2) (x : Fin 352) :
    (renderedLine s).Painted k x := by
  have ready1 := (border_paintFrame s).ready hs
  have ready2 := (background_paintFrame _).ready ready1
  have frame1 := border_lineFrame s
  have frame2 := background_lineFrame (border s)
  have frame3 := frame2.trans (sprites_lineFrame _)
  have seq1 := frame1.seq.trans hn
  refine border_painted (frame3.seq.trans seq1) ((sprites_mobFrame _).ready ready2) ?_
  rw [frame3.vd, frame3.hd, frame3.et, frame3.el]
  by_cases hb : inBorder (border s).vd (border s).hd (border s).et (border s).el n.val x.val = true
  · exact .inl hb
  · obtain ⟨window, h0, h1⟩ := inWindow_of_not_inBorder seq1 hb
    exact .inr (runMobs_painted _ spriteCells_mob (frame2.seq.trans seq1) ready2
      (background_painted ready1 window h0 h1))

end

/-- Settles O39: the two rows are copies of the rendered line, whose cells are all painted. -/
theorem everyFramePixelIsPainted : Obligations.EveryFramePixelIsPainted := by
  intro s n inv hs
  refine ⟨_, step_line hs, fun y x hy hx hrow => ?_⟩
  obtain ⟨k, hk⟩ : ∃ k : Fin 2, y = 2 * n.val + k.val := hrow.elim (fun h => ⟨0, h⟩) (fun h => ⟨1, h⟩)
  have painted := renderedLine_painted hs inv.ready k ⟨x, hx⟩
  rw [State.Painted, (renderedLine_lineFrame s).params] at painted
  show ∃ c, ((lineStep n s).frame[y])[x] = paletteColor s.params c
  simp only [lineStep_frame_row n s k y hy hk]
  exact painted

end Sys2Proof.Machine
end

section
/-! Scanline orchestrator (47_scanline_orchestrator.md), one step: the host command, the transitions of SEQ, words whose
operation is not under way, and the sprite line. -/

namespace Sys2Proof.Machine

open Sys2Proof.Claims

variable {s : State}

/-! ## RENDER_FRAME (R240, R242, R247) -/

theorem exec_renderFrame_busy (h : s.seq ≠ .idle) : exec .renderFrame s = .refused .renderInProgress := by
  rw [exec, execRenderFrame]
  cases hs : s.seq with
  | idle => exact absurd hs h
  | rendering n => rfl
  | finalizing => rfl

theorem step_idle_renderFrame {rest : List HostMove} (hs : s.seq = .idle) (hi : s.inbox = .renderFrame :: rest) :
    step s = .next { latch { s with inbox := rest } with seq := .rendering 0 } := by
  rw [step_idle hs, hostTurn, hi]
  exact exec_renderFrame_idle (s := { s with inbox := rest }) hs

/-- DELAY is the low three bits of its word (R101, R242). -/
theorem delay_get_toNat (w : Word) : (Layout.delay.get w).toNat = w.toNat % 8 := by
  rw [Field.get, BitVec.extractLsb'_toNat]
  rfl

/-- Settles O2: LATCH, with its delays in arithmetic form. -/
theorem renderFrameLatches : Obligations.RenderFrameLatches := by
  intro s hs
  rw [exec_renderFrame_idle hs, latch_eq, delay_get_toNat, delay_get_toNat]
  rfl

/-- Settles O3: SEQ is in one of the two states that refuse the command. -/
theorem renderFrameOutsideIdleRefused : Obligations.RenderFrameOutsideIdleRefused := fun _ => exec_renderFrame_busy

/-! ## The transitions of SEQ (R241) -/

theorem seqAfter_of_lt {n : Fin 112} (h : n.val < 111) : seqAfter n = .rendering ⟨n.val + 1, by omega⟩ := dif_pos h

/-- From IDLE the oldest move of the inbox decides where SEQ goes: the command to RENDERING(0), any other move or none
nowhere (R241, R266). -/
theorem step_idle_seq {t : State} (hs : s.seq = .idle) (ht : step s = .next t) :
    ((∃ rest, s.inbox = .renderFrame :: rest) → t.seq = .rendering 0) ∧
      ((¬ ∃ rest, s.inbox = .renderFrame :: rest) → t.seq = .idle) := by
  constructor
  · rintro ⟨rest, hi⟩
    cases (step_idle_renderFrame hs hi).symm.trans ht
    rfl
  · intro other
    cases hi : s.inbox with
    | nil => cases (step_idle_wait hs hi).symm.trans ht; exact hs
    | cons move rest =>
      cases move with
      | write a v => cases (step_idle_write hs hi).symm.trans ht; exact hs
      | setMode m => cases (step_idle_setMode hs hi).symm.trans ht; exact hs
      | renderFrame => exact absurd ⟨rest, hi⟩ other

/-- Settles O4: the step's equation in each state of SEQ. -/
theorem sequencerTransitions : Obligations.SequencerTransitions := fun s =>
  ⟨exec_renderFrame_idle, fun n h hs => by rw [step_line hs, seqAfter_of_lt h], fun hs => step_line hs, step_finalizing,
    fun _ => step_idle_seq⟩

/-! ## Words whose operation is not under way (log entry 10) -/

theorem bgLine_eq_none (h : ∀ bl, ¬ InWindow s bl) : s.bgLine = none :=
  Option.eq_none_iff_forall_ne_some.mpr fun bl hbl => h bl (bgLine_eq_some_iff.mp hbl)

theorem line_eq_none (h : ∀ n, s.seq ≠ .rendering n) : s.line = none := by
  rw [State.line]
  cases hs : s.seq with
  | idle => rfl
  | rendering n => exact absurd hs (h n)
  | finalizing => rfl

theorem exec_backtab_outside {i : Instr} (hi : isBacktab i = true) (hb : s.bgLine = none) : exec i s = .next s := by
  have word : i ≠ .renderFrame := by
    rintro rfl
    exact absurd hi (by simp [isBacktab])
  rw [exec_word_eq_after word, after_backtab_outside hi hb]

theorem exec_borderColor_of_no_line (c : PalIdx) (h : s.line = none) : exec (.borderColor c) s = .next s := by
  rw [exec, execBorderColor, h]

theorem spriteLine_eq_none (h : s.line = none) : s.spriteLine = none := by
  rw [State.spriteLine, h]

/-- Settles O7: no background line, no line, no sprite line. -/
theorem wordsWithoutTheirOperation : Obligations.WordsWithoutTheirOperation :=
  ⟨fun _ _ hi hw => exec_backtab_outside hi (bgLine_eq_none hw),
    fun c _ hs => exec_borderColor_of_no_line c (line_eq_none hs),
    fun i mob bg border _ hs => exec_mobColl_of_no_spriteLine i mob bg border (spriteLine_eq_none (line_eq_none hs))⟩

/-! ## The sprite line (R245) -/

/-- Settles O25: the test y <= sl < y + H, solved for the raster line. -/
theorem spriteLinesOfMob : Obligations.SpriteLinesOfMob := by
  intro s n hs
  refine ⟨_, spriteLine_rendering hs, rfl, fun u => ?_, fun _ _ => by omega⟩
  rw [onLine_iff]
  omega

end Sys2Proof.Machine
end

section
/-! Scanline orchestrator (47_scanline_orchestrator.md), a whole frame: 1 LATCH, 112 LINEs and 1 FINALIZE (R240, R248). -/

namespace Sys2Proof.Machine

open Sys2Proof.Claims

variable {s : State}

theorem lineStep_inbox (n : Fin 112) (s : State) : (lineStep n s).inbox = s.inbox := by
  rw [lineStep_eq, clearBuffers_inbox, copyOut_inbox, (renderedLine_lineFrame s).inbox]

/-- From RENDERING(0), `n` steps render `n` lines and take no move of the host: the induction, line by line. -/
theorem runSteps_lines (hs : s.seq = .rendering 0) (n : Nat) (hn : n ≤ 112) :
    ∃ u, (∀ j, runSteps (n + j) s = runSteps j u) ∧ u.seq = seqAt n ∧ u.inbox = s.inbox := by
  induction n with
  | zero => exact ⟨s, fun j => by rw [Nat.zero_add], hs, rfl⟩
  | succ n ih =>
    obtain ⟨u, run, hseq, hinbox⟩ := ih (by omega)
    have hu : u.seq = .rendering ⟨n, hn⟩ := hseq.trans (seqAt_val ⟨n, hn⟩)
    refine ⟨{ lineStep ⟨n, hn⟩ u with seq := seqAfter ⟨n, hn⟩ }, fun j => ?_, seqAfter_eq ⟨n, hn⟩,
      (lineStep_inbox ⟨n, hn⟩ u).trans hinbox⟩
    rw [Nat.add_assoc, Nat.add_comm 1, run, runSteps_next (step_line hu)]

/-- Settles O44: the command enters RENDERING(0), the lines follow one after another, FINALIZE returns to IDLE. -/
theorem frameTakesOneHundredFourteenSteps : Obligations.FrameTakesOneHundredFourteenSteps := by
  intro s rest hs hi
  have first := runSteps_next (step_idle_renderFrame hs hi)
  have lines := runSteps_lines (s := { latch { s with inbox := rest } with seq := .rendering 0 }) rfl
  obtain ⟨u, run, hseq, hinbox⟩ := lines 112 (le_refl 112)
  refine ⟨fun n => ?_, ⟨u, (first 112).trans (run 0), hseq⟩, ⟨{ finalize u with seq := .idle }, ?_, rfl, hinbox⟩⟩
  · obtain ⟨v, run, hseq, -⟩ := lines n.val (by omega)
    exact ⟨v, (first n.val).trans (run 0), hseq.trans (seqAt_val n)⟩
  · exact (first 113).trans ((run 1).trans (runSteps_next (step_finalizing hseq) 0))

end Sys2Proof.Machine
end

section
/-! Scanline orchestrator (47_scanline_orchestrator.md), the collision registers do not reach FRAME (R240). A BACKTAB word
never writes memory and reads none of these registers, so it commutes with any change of them; the border word and the
words of the MOBs are known to keep two such states agreed. -/

namespace Sys2Proof.Machine

open Sys2Proof.Claims

/-- The state over another memory. -/
def State.withMem (s : State) (m : Memory) : State := { s with mem := m }

/-! ## Words of the background, over another memory -/

section
variable {s : State} {m : Memory}

@[simp] theorem withMem_mem : (s.withMem m).mem = m := rfl
@[simp] theorem withMem_csp : (s.withMem m).csp = s.csp := rfl
@[simp] theorem withMem_modeq : (s.withMem m).modeq = s.modeq := rfl
@[simp] theorem withMem_bgLine : (s.withMem m).bgLine = s.bgLine := rfl

theorem fetchRow_withMem {a : Nat} (h : m.read a = s.mem.read a) (u : RowUse) :
    fetchRow a u (s.withMem m) = (fetchRow a u s).withMem m := by
  rw [fetchRow, fetchRow, withMem_mem, h]
  cases u <;> rfl

theorem fetchStack_withMem (h : m.read s.csp = s.mem.read s.csp) (u : RowUse) :
    fetchStack u (s.withMem m) = (fetchStack u s).withMem m := by
  rw [fetchStack, fetchStack, State.stackColor, State.stackColor, withMem_mem, withMem_csp, h]
  cases u <;> rfl

variable (cells : ∀ a : Nat, a < 0x18 ∨ 0x20 ≤ a → m.read a = s.mem.read a)
include cells

theorem fgbgCard_withMem (col : Fin 20) (fg : BitVec 3) (card : BitVec 6) (bg : BitVec 4) (gram : Bool) (sub : Nat) :
    fgbgCard col fg card bg gram sub (s.withMem m) = (fgbgCard col fg card bg gram sub s).withMem m :=
  fetchRow_withMem (cells _ (.inr (graphicAddr_ge _ _ _))) _

/-- Step 1 of CS_CARD reads memory at CSP only, before or after the advance: a cell of the color stack. -/
theorem cacheCard_withMem (hcsp : 0x28 ≤ s.csp) (col : Fin 20) (fg : PalIdx) (adv : Bool) :
    cacheCard col fg adv (s.withMem m) = (cacheCard col fg adv s).withMem m := by
  have color : (if adv then cspAdvance (s.withMem m) else s.withMem m).stackColor =
      (if adv then cspAdvance s else s).stackColor := by
    have hnext := nextCsp_range s.csp
    cases adv with
    | false => exact congrArg Layout.cstkColor.get (cells s.csp (.inr (by omega)))
    | true => exact congrArg Layout.cstkColor.get (cells (nextCsp s.csp) (.inr (by omega)))
  rw [cacheCard_eq, cacheCard_eq, color]
  rfl

theorem csCard_withMem (hcsp : 0x28 ≤ s.csp) (col : Fin 20) (fg : PalIdx) (gram : Bool) (card : Nat) (adv : Bool)
    (sub : Nat) : csCard col fg gram card adv sub (s.withMem m) = (csCard col fg gram card adv sub s).withMem m := by
  have row := cells (graphicAddr gram card sub) (.inr (graphicAddr_ge _ _ _))
  simp only [csCard]
  split
  · rw [cacheCard_withMem cells hcsp]
    exact fetchRow_withMem (by rw [(cacheCard_paintFrame col fg adv s).mem, row]) _
  · exact fetchRow_withMem row _

theorem csqCard_withMem (hcsp : 0x28 ≤ s.csp) (col : Fin 20) (c0 c1 c2 c3 : BitVec 3) (sub : Nat) :
    csqCard col c0 c1 c2 c3 sub (s.withMem m) = (csqCard col c0 c1 c2 c3 sub s).withMem m := by
  simp only [csqCard, fetchStack_withMem (cells s.csp (.inr (by omega)))]
  rfl

theorem after_backtab_withMem {i : Instr} (hi : isBacktab i = true) (hcsp : 0x28 ≤ s.csp) :
    after i (s.withMem m) = (after i s).withMem m := by
  cases hb : s.bgLine with
  | none => rw [after_backtab_outside hi hb, after_backtab_outside hi (withMem_bgLine.trans hb)]
  | some bl =>
    have hbm : (s.withMem m).bgLine = some bl := hb
    obtain ⟨-, col, fg, card, bg, gram, run⟩ | ⟨col, fg, gram, card, adv, -, run⟩ | ⟨-, col, c0, c1, c2, c3, run⟩ :=
      after_backtab_cases hi
    · rw [run s bl hb, run _ bl hbm, fgbgCard_withMem cells]
    · rw [run s bl hb, run _ bl hbm, csCard_withMem cells hcsp]
    · rw [run s bl hb, run _ bl hbm, csqCard_withMem cells hcsp]

theorem runCell_backtab_withMem (hcsp : 0x28 ≤ s.csp) (n : Fin 240) :
    runCell (s.withMem m) (.backtab n) = (runCell s (.backtab n)).withMem m := by
  rw [runCell, runCell, instrAt_backtab_congr (u := s) (v := s.withMem m) rfl cells n]
  exact after_backtab_withMem cells (isBacktab_decodeCell _ _ _) hcsp

end

/-! ## CSP stays in the color stack -/

theorem csCard_csp_ge {s : State} (h : 0x28 ≤ s.csp) (col : Fin 20) (fg : PalIdx) (gram : Bool) (card : Nat) (adv : Bool)
    (sub : Nat) : 0x28 ≤ (csCard col fg gram card adv sub s).csp := by
  by_cases hsub : sub = 0
  · rw [csCard_csp _ _ _ _ _ hsub]
    split
    · exact (nextCsp_range s.csp).1
    · exact h
  · rwa [(csCard_stackKept col fg gram card adv hsub s).csp]

theorem runCell_backtab_csp_ge {s : State} (h : 0x28 ≤ s.csp) (n : Fin 240) :
    0x28 ≤ (runCell s (.backtab n)).csp := by
  have hi : isBacktab (s.instrAt (.backtab n)) = true := isBacktab_decodeCell _ _ _
  rw [runCell]
  cases hb : s.bgLine with
  | none => rwa [after_backtab_outside hi hb]
  | some bl =>
    obtain ⟨-, col, fg, card, bg, gram, run⟩ | ⟨col, fg, gram, card, adv, -, run⟩ | ⟨-, col, c0, c1, c2, c3, run⟩ :=
      after_backtab_cases hi
    · rwa [run s bl hb, fgbgCard_eq]
    · rw [run s bl hb]; exact csCard_csp_ge h col fg gram card adv _
    · rwa [run s bl hb, csqCard_eq]

/-! ## The background, over another memory -/

section
variable {s : State} {m : Memory}

/-- Running BACKTAB cells one after another: the induction, once. -/
theorem runBacktab_withMem (l : List (Fin 240)) (cells : ∀ a : Nat, a < 0x18 ∨ 0x20 ≤ a → m.read a = s.mem.read a)
    (hcsp : 0x28 ≤ s.csp) :
    (l.map Cell.backtab).foldl runCell (s.withMem m) = ((l.map Cell.backtab).foldl runCell s).withMem m := by
  induction l generalizing s with
  | nil => rfl
  | cons n l ih =>
    rw [List.map_cons, List.foldl_cons, List.foldl_cons, runCell_backtab_withMem cells hcsp]
    exact ih (by rwa [(runCell_backtab_paintFrame n s).mem]) (runCell_backtab_csp_ge hcsp n)

theorem background_withMem (cells : ∀ a : Nat, a < 0x18 ∨ 0x20 ≤ a → m.read a = s.mem.read a) (hcsp : 0x28 ≤ s.csp) :
    background (s.withMem m) = (background s).withMem m := by
  rw [background, background, withMem_bgLine, withMem_modeq]
  cases s.bgLine with
  | none => rfl
  | some bl =>
    dsimp only
    rw [backgroundCells_eq]
    split
    · exact runBacktab_withMem (s := resetCsp s) _ cells (le_refl 0x28)
    · exact runBacktab_withMem _ cells hcsp

end

/-! ## Two states that differ in the registers only -/

section
variable {s t : State}

theorem State.sameButCollisions_iff : s.SameButCollisions t ↔
    ∃ m : Memory, (∀ a : Nat, a < 0x18 ∨ 0x20 ≤ a → m.read a = t.mem.read a) ∧ s = t.withMem m := by
  constructor
  · exact fun h => ⟨s.mem, h.cells, h.rest⟩
  · rintro ⟨m, cells, rfl⟩
    exact ⟨cells, rfl⟩

namespace State.SameButCollisions

theorem agreeOn (h : s.SameButCollisions t) (P : Fin 20 → Prop) : AgreeOn P s t := by
  obtain ⟨m, cells, rfl⟩ := sameButCollisions_iff.mp h
  exact .mk t.mem t.frame t.inbox t.cacheFg t.cacheBg (fun a ha => (cells a ha).symm) (fun _ _ => rfl) (fun _ _ => rfl)

/-- Operations that keep FRAME and the inbox, and keep the rest agreed with the whole cache, keep all but the registers
equal. -/
theorem of_agreeOn {u v : State} (h : s.SameButCollisions t) (f : LineFrame s u) (g : LineFrame t v)
    (k : AgreeOn (fun _ => True) u v) : u.SameButCollisions v := by
  have frame : u.frame = v.frame := by rw [f.frame, g.frame, h.rest]
  have inbox : u.inbox = v.inbox := by rw [f.inbox, g.inbox, h.rest]
  cases k with
  | mk m fr l cf cb cells fg bg =>
    obtain rfl : cf = u.cacheFg := Vector.ext fun c hc => fg ⟨c, hc⟩ trivial
    obtain rfl : cb = u.cacheBg := Vector.ext fun c hc => bg ⟨c, hc⟩ trivial
    obtain rfl : u.frame = fr := frame
    obtain rfl : u.inbox = l := inbox
    exact ⟨fun a ha => (cells a ha).symm, rfl⟩

theorem border (h : s.SameButCollisions t) : (border s).SameButCollisions (border t) :=
  h.of_agreeOn (border_lineFrame s) (border_lineFrame t) (border_agree (h.agreeOn _))

theorem sprites (h : s.SameButCollisions t) : (sprites s).SameButCollisions (sprites t) :=
  h.of_agreeOn (sprites_lineFrame s) (sprites_lineFrame t) (sprites_agree (h.agreeOn _))

theorem background (h : s.SameButCollisions t) (hcsp : 0x28 ≤ s.csp) :
    (background s).SameButCollisions (background t) := by
  obtain ⟨m, cells, rfl⟩ := sameButCollisions_iff.mp h
  rw [background_withMem cells hcsp]
  exact ⟨by rwa [(background_paintFrame t).mem], rfl⟩

theorem renderedLine (h : s.SameButCollisions t) (hcsp : 0x28 ≤ s.csp) :
    (renderedLine s).SameButCollisions (renderedLine t) :=
  ((h.border.background (by rwa [border_csp])).sprites).border

/-- COPY_OUT, CLEAR and the move of SEQ look at no memory. -/
theorem lineStep (h : s.SameButCollisions t) (hcsp : 0x28 ≤ s.csp) (n : Fin 112) (q : Seq) :
    { lineStep n s with seq := q }.SameButCollisions { lineStep n t with seq := q } := by
  have rendered := h.renderedLine hcsp
  rw [lineStep_eq, lineStep_eq]
  generalize Machine.renderedLine s = u, Machine.renderedLine t = v at rendered
  obtain ⟨m, cells, rfl⟩ := sameButCollisions_iff.mp rendered
  exact ⟨cells, rfl⟩

/-- FINALIZE writes the registers only. -/
theorem finalize (h : s.SameButCollisions t) (q : Seq) :
    { finalize s with seq := q }.SameButCollisions { finalize t with seq := q } := by
  obtain ⟨m, cells, rfl⟩ := sameButCollisions_iff.mp h
  refine ⟨fun a ha => ?_, rfl⟩
  show (finalizeMemory m).read a = (finalizeMemory t.mem).read a
  rw [finalizeMemory_other m ha, finalizeMemory_other t.mem ha, cells a ha]

theorem frame (h : s.SameButCollisions t) : s.frame = t.frame := by rw [h.rest]

theorem seq (h : s.SameButCollisions t) : t.seq = s.seq := by rw [h.rest]

end State.SameButCollisions

/-- Settles O45: a LINE and FINALIZE keep everything but the registers equal, FRAME among it. -/
theorem frameIndependentOfCollisionRegisters : Obligations.FrameIndependentOfCollisionRegisters := by
  intro s t h hcsp _ busy
  have both {s' t' : State} (hs : step s = .next s') (ht : step t = .next t') (k : s'.SameButCollisions t') :
      ∃ s' t', step s = .next s' ∧ step t = .next t' ∧ s'.SameButCollisions t' ∧ s'.frame = t'.frame :=
    ⟨s', t', hs, ht, k, k.frame⟩
  cases hs : s.seq with
  | idle => exact absurd hs busy
  | rendering n => exact both (step_line hs) (step_line (h.seq.trans hs)) (h.lineStep hcsp n _)
  | finalizing => exact both (step_finalizing hs) (step_finalizing (h.seq.trans hs)) (h.finalize _)

end

end Sys2Proof.Machine
end
